-- ==== Sys2Proof/Word.lean ====
section
/-! DEFINITION. The machine's words: bytes, 16-bit words, 32-bit longwords, and the numbers that name registers.
(00_scope.md R5, R6, R7; 30_encoding.md R112, R118.) -/

namespace Sys2Proof

/-- A byte, 8 bits (R7). -/
abbrev Byte := BitVec 8

/-- What the source calls a word, 16 bits (R7): an instruction, or the data of a `.W` form. -/
abbrev Half := BitVec 16

/-- What the source calls a longword, 32 bits (R7): a register, an address, the data of a `.L` form. -/
abbrev Word := BitVec 32

/-- The number of a general register, the 4-bit field `nnnn` or `mmmm`; every value is legal (R112). -/
abbrev Reg := BitVec 4

/-- The number of a register of the bank that is not current, the 3-bit field `bbb` (R118). -/
abbrev BankReg := BitVec 3

end Sys2Proof
end

