-- ==== Sys2Proof/Config.lean ====
section
/-! DEFINITION. What a launch fixes for a whole run (00_scope.md R5 and the parameter table of
92_eei_decisions.md), as plain data types, and the free values: the values the spec leaves open, as opaque
constants of which no proof can see anything.
The default of each parameter is in Machine/Defaults.lean. -/

namespace Sys2Proof.Config

/-- Byte order of data and of instruction fetch, the parameter `ENDIAN` (R72; log 1). -/
inductive Endian where
  | big
  | little
  deriving DecidableEq, Repr

/-- The kind of a region of `MEMMAP` (R82). -/
inductive RegionKind where
  | ram
  | rom
  | device
  deriving DecidableEq, Repr

/-- A region of `MEMMAP`: the `size` byte addresses from `base` on (R82; log 3). -/
structure Region where
  base : Nat
  size : Nat
  kind : RegionKind
  deriving DecidableEq, Repr

/-- A set of 16-bit instruction words: those that have `value` at the bits of `mask`. A list of these is how a
launch writes down the predicate `IS32` (R216) and the set `SLOT_ILLEGAL_EXTRA` (R124) as plain data (log 26). -/
structure WordPattern where
  mask : Half
  value : Half
  deriving DecidableEq, Repr

/-- What MACH[31:16] hold after a MAC.L with S = 1, the parameter `MACL_SAT_HIGH` (R165; log 13). -/
inductive MaclSatHigh where
  | preserve
  | signext
  deriving DecidableEq, Repr

/-- The pc offset of LDRE and LDRS, the parameter `LDRE_PC_BIAS`, 4 or 0 (R402; log 27). -/
inductive LdrePcBias where
  | four
  | zero
  deriving DecidableEq, Repr

/-- What LDTLB does in privileged mode: it is refused, as R254 says, or it loads the TLB entry field by field as R48
says (log 17). -/
inductive LdtlbUse where
  | refuse
  | load
  deriving DecidableEq, Repr

/-- A row of `EXC_TABLE`: the code written to EXPEVT (INTEVT for an interrupt) and the offset from VBR of the handler
(R452). -/
structure ExcEntry where
  code : Word
  offset : Word
  deriving DecidableEq, Repr

/-- A row of `EXC_TABLE` of the reset class: the code, and the address the hardware goes to (R452). -/
structure ResetEntry where
  code : Word
  address : Word
  deriving DecidableEq, Repr

/-- `EXC_TABLE`: the rows of R452 in its order (log 9). The TLB rows and the initial page write are never raised, as the
MMU is disabled (R458, R459); the code of a maskable interrupt is the request's (R463); the reset rows are the launch's
alone (R468). -/
structure ExcTable where
  unconditionalTrap : ExcEntry
  generalIllegal : ExcEntry
  slotIllegal : ExcEntry
  instructionAddressError : ExcEntry
  dataAddressErrorRead : ExcEntry
  dataAddressErrorWrite : ExcEntry
  dataTlbMissRead : ExcEntry
  dataTlbMissWrite : ExcEntry
  dataTlbProtectionRead : ExcEntry
  dataTlbProtectionWrite : ExcEntry
  initialPageWrite : ExcEntry
  dataTlbMultipleHit : ResetEntry
  instructionTlbMiss : ExcEntry
  instructionTlbProtection : ExcEntry
  instructionTlbMultipleHit : ResetEntry
  interruptOffset : Word
  nonMaskableInterrupt : ExcEntry
  powerOnReset : ResetEntry
  manualReset : ResetEntry
  deriving DecidableEq, Repr

/-- The parameters a launch fixes for the run (R5; log 2). -/
structure Params where
  endian : Endian
  memMap : List Region
  excTable : ExcTable
  is32 : List WordPattern
  maclSatHigh : MaclSatHigh
  slotIllegalExtra : List WordPattern
  ldrePcBias : LdrePcBias
  /-- The set `END` of addresses at which a run ends (R476; log 25). -/
  ends : List Word
  /-- The MODEL's own: what LDTLB does in privileged mode (log 17). -/
  ldtlb : LdtlbUse
  deriving DecidableEq, Repr

/-- A free bit, by how many free values were drawn before it: RF1 and RF0 after SETRC and LDRC (R418), MACH[0]
after a MAC.W that saturates (R166). Nothing is known of it (logs 11, 12). -/
opaque freeBit : Nat → BitVec 1

/-- A free byte, by how many free values were drawn before it: the bytes of a cache block that OCBI (R357) and
MOVCA.L (R352) leave unspecified, in memory and in registers mapped there. Nothing is known of it (logs 14, 15). -/
opaque freeByte : Nat → Byte

end Sys2Proof.Config
end

