-- ==== Sys2Proof/Syntax.lean ====
section
/-! DEFINITION. The instructions: one constructor for each of the 224 rows of spec/opcode_table.json.
Operands stand in the order of the assembler form (30_encoding.md R125); `m` and `n` are the numbers of Rm and Rn
(R112), `b` that of the banked register (R118), `i` the 8-bit immediate (R113), `d` the raw displacement field
before scaling (R114 to R117). -/

namespace Sys2Proof

/-- An instruction of the SH4AL-DSP CPU (30_encoding.md R120). -/
inductive Instr where
  -- Arithmetic instructions (40_arithmetic.md).
  /-- `ADD Rm,Rn` (R141). -/
  | add (m : Reg) (n : Reg)
  /-- `ADD #imm,Rn` (R142). -/
  | addImm (i : BitVec 8) (n : Reg)
  /-- `ADDC Rm,Rn` (R143). -/
  | addc (m : Reg) (n : Reg)
  /-- `ADDV Rm,Rn` (R144). -/
  | addv (m : Reg) (n : Reg)
  /-- `CMP/EQ Rm,Rn` (R145). -/
  | cmpEq (m : Reg) (n : Reg)
  /-- `CMP/GE Rm,Rn` (R146). -/
  | cmpGe (m : Reg) (n : Reg)
  /-- `CMP/GT Rm,Rn` (R147). -/
  | cmpGt (m : Reg) (n : Reg)
  /-- `CMP/HI Rm,Rn` (R148). -/
  | cmpHi (m : Reg) (n : Reg)
  /-- `CMP/HS Rm,Rn` (R149). -/
  | cmpHs (m : Reg) (n : Reg)
  /-- `CMP/PL Rn` (R150). -/
  | cmpPl (n : Reg)
  /-- `CMP/PZ Rn` (R151). -/
  | cmpPz (n : Reg)
  /-- `CMP/STR Rm,Rn` (R152). -/
  | cmpStr (m : Reg) (n : Reg)
  /-- `CMP/EQ #imm,R0` (R153). -/
  | cmpEqImm (i : BitVec 8)
  /-- `DIV0S Rm,Rn` (R154). -/
  | div0s (m : Reg) (n : Reg)
  /-- `DIV0U` (R155). -/
  | div0u
  /-- `DIV1 Rm,Rn` (R156). -/
  | div1 (m : Reg) (n : Reg)
  /-- `DMULS.L Rm,Rn` (R158). -/
  | dmulsL (m : Reg) (n : Reg)
  /-- `DMULU.L Rm,Rn` (R159). -/
  | dmuluL (m : Reg) (n : Reg)
  /-- `DT Rn` (R160). -/
  | dt (n : Reg)
  /-- `EXTS.B Rm,Rn` (R161). -/
  | extsB (m : Reg) (n : Reg)
  /-- `EXTS.W Rm,Rn` (R162). -/
  | extsW (m : Reg) (n : Reg)
  /-- `EXTU.B Rm,Rn` (R163). -/
  | extuB (m : Reg) (n : Reg)
  /-- `EXTU.W Rm,Rn` (R164). -/
  | extuW (m : Reg) (n : Reg)
  /-- `MAC.L @Rm+,@Rn+` (R165). -/
  | macL (m : Reg) (n : Reg)
  /-- `MAC.W @Rm+,@Rn+` (R166). -/
  | macW (m : Reg) (n : Reg)
  /-- `MUL.L Rm,Rn` (R167). -/
  | mulL (m : Reg) (n : Reg)
  /-- `MULS.W Rm,Rn` (R168). -/
  | mulsW (m : Reg) (n : Reg)
  /-- `MULU.W Rm,Rn` (R169). -/
  | muluW (m : Reg) (n : Reg)
  /-- `NEG Rm,Rn` (R170). -/
  | neg (m : Reg) (n : Reg)
  /-- `NEGC Rm,Rn` (R171). -/
  | negc (m : Reg) (n : Reg)
  /-- `SUB Rm,Rn` (R172). -/
  | sub (m : Reg) (n : Reg)
  /-- `SUBC Rm,Rn` (R173). -/
  | subc (m : Reg) (n : Reg)
  /-- `SUBV Rm,Rn` (R174). -/
  | subv (m : Reg) (n : Reg)
  -- Logical instructions (41_logical.md).
  /-- `AND Rm,Rn` (R181). -/
  | andReg (m : Reg) (n : Reg)
  /-- `AND #imm,R0` (R182). -/
  | andImm (i : BitVec 8)
  /-- `AND.B #imm,@(R0,GBR)` (R183). -/
  | andB (i : BitVec 8)
  /-- `NOT Rm,Rn` (R184). -/
  | notReg (m : Reg) (n : Reg)
  /-- `OR Rm,Rn` (R185). -/
  | orReg (m : Reg) (n : Reg)
  /-- `OR #imm,R0` (R186). -/
  | orImm (i : BitVec 8)
  /-- `OR.B #imm,@(R0,GBR)` (R187). -/
  | orB (i : BitVec 8)
  /-- `TAS.B @Rn` (R188). -/
  | tasB (n : Reg)
  /-- `TST Rm,Rn` (R189). -/
  | tstReg (m : Reg) (n : Reg)
  /-- `TST #imm,R0` (R190). -/
  | tstImm (i : BitVec 8)
  /-- `TST.B #imm,@(R0,GBR)` (R191). -/
  | tstB (i : BitVec 8)
  /-- `XOR Rm,Rn` (R192). -/
  | xorReg (m : Reg) (n : Reg)
  /-- `XOR #imm,R0` (R193). -/
  | xorImm (i : BitVec 8)
  /-- `XOR.B #imm,@(R0,GBR)` (R194). -/
  | xorB (i : BitVec 8)
  -- Branch instructions (42_branch.md).
  /-- `BF label` (R205). -/
  | bf (d : BitVec 8)
  /-- `BF/S label` (R206). -/
  | bfS (d : BitVec 8)
  /-- `BRA label` (R207). -/
  | bra (d : BitVec 12)
  /-- `BRAF Rn` (R208). -/
  | braf (n : Reg)
  /-- `BT label` (R209). -/
  | bt (d : BitVec 8)
  /-- `BT/S label` (R210). -/
  | btS (d : BitVec 8)
  /-- `JMP @Rn` (R211). -/
  | jmp (n : Reg)
  /-- `RTS` (R212). -/
  | rts
  /-- `BSR label` (R213). -/
  | bsr (d : BitVec 12)
  /-- `BSRF Rn` (R214). -/
  | bsrf (n : Reg)
  /-- `JSR @Rn` (R215). -/
  | jsr (n : Reg)
  -- System control instructions (43_system_control.md).
  /-- `CLRMAC` (R231). -/
  | clrmac
  /-- `CLRS` (R232). -/
  | clrs
  /-- `CLRT` (R233). -/
  | clrt
  /-- `LDC Rm,GBR` (R234). -/
  | ldcGbr (m : Reg)
  /-- `LDC Rm,VBR` (R235). -/
  | ldcVbr (m : Reg)
  /-- `LDC Rm,SGR` (R236). -/
  | ldcSgr (m : Reg)
  /-- `LDC Rm,SSR` (R237). -/
  | ldcSsr (m : Reg)
  /-- `LDC Rm,SPC` (R238). -/
  | ldcSpc (m : Reg)
  /-- `LDC Rm,DBR` (R239). -/
  | ldcDbr (m : Reg)
  /-- `LDC Rm,Rb_BANK` (R240). -/
  | ldcBank (m : Reg) (b : BankReg)
  /-- `LDC.L @Rm+,GBR` (R241). -/
  | ldcLGbr (m : Reg)
  /-- `LDC.L @Rm+,VBR` (R242). -/
  | ldcLVbr (m : Reg)
  /-- `LDC.L @Rm+,SGR` (R243). -/
  | ldcLSgr (m : Reg)
  /-- `LDC.L @Rm+,SSR` (R244). -/
  | ldcLSsr (m : Reg)
  /-- `LDC.L @Rm+,SPC` (R245). -/
  | ldcLSpc (m : Reg)
  /-- `LDC.L @Rm+,DBR` (R246). -/
  | ldcLDbr (m : Reg)
  /-- `LDC.L @Rm+,Rb_BANK` (R247). -/
  | ldcLBank (m : Reg) (b : BankReg)
  /-- `LDS Rm,MACH` (R248). -/
  | ldsMach (m : Reg)
  /-- `LDS Rm,MACL` (R249). -/
  | ldsMacl (m : Reg)
  /-- `LDS Rm,PR` (R250). -/
  | ldsPr (m : Reg)
  /-- `LDS.L @Rm+,MACH` (R251). -/
  | ldsLMach (m : Reg)
  /-- `LDS.L @Rm+,MACL` (R252). -/
  | ldsLMacl (m : Reg)
  /-- `LDS.L @Rm+,PR` (R253). -/
  | ldsLPr (m : Reg)
  /-- `LDTLB` (R254). -/
  | ldtlb
  /-- `NOP` (R255). -/
  | nop
  /-- `RTE` (R256). -/
  | rte
  /-- `SETS` (R257). -/
  | sets
  /-- `SETT` (R258). -/
  | sett
  /-- `SLEEP` (R259). -/
  | sleep
  /-- `STC GBR,Rn` (R260). -/
  | stcGbr (n : Reg)
  /-- `STC VBR,Rn` (R261). -/
  | stcVbr (n : Reg)
  /-- `STC SSR,Rn` (R262). -/
  | stcSsr (n : Reg)
  /-- `STC SPC,Rn` (R263). -/
  | stcSpc (n : Reg)
  /-- `STC SGR,Rn` (R264). -/
  | stcSgr (n : Reg)
  /-- `STC DBR,Rn` (R265). -/
  | stcDbr (n : Reg)
  /-- `STC Rb_BANK,Rn` (R266). -/
  | stcBank (b : BankReg) (n : Reg)
  /-- `STC.L GBR,@-Rn` (R267). -/
  | stcLGbr (n : Reg)
  /-- `STC.L VBR,@-Rn` (R268). -/
  | stcLVbr (n : Reg)
  /-- `STC.L SSR,@-Rn` (R269). -/
  | stcLSsr (n : Reg)
  /-- `STC.L SPC,@-Rn` (R270). -/
  | stcLSpc (n : Reg)
  /-- `STC.L SGR,@-Rn` (R271). -/
  | stcLSgr (n : Reg)
  /-- `STC.L DBR,@-Rn` (R272). -/
  | stcLDbr (n : Reg)
  /-- `STC.L Rb_BANK,@-Rn` (R273). -/
  | stcLBank (b : BankReg) (n : Reg)
  /-- `STS MACH,Rn` (R274). -/
  | stsMach (n : Reg)
  /-- `STS MACL,Rn` (R275). -/
  | stsMacl (n : Reg)
  /-- `STS PR,Rn` (R276). -/
  | stsPr (n : Reg)
  /-- `STS.L MACH,@-Rn` (R277). -/
  | stsLMach (n : Reg)
  /-- `STS.L MACL,@-Rn` (R278). -/
  | stsLMacl (n : Reg)
  /-- `STS.L PR,@-Rn` (R279). -/
  | stsLPr (n : Reg)
  /-- `TRAPA #imm` (R280). -/
  | trapa (i : BitVec 8)
  -- Moves (44_data_transfer.md).
  /-- `MOV Rm,Rn` (R301). -/
  | mov (m : Reg) (n : Reg)
  /-- `MOV.B Rm,@Rn` (R302). -/
  | movBStore (m : Reg) (n : Reg)
  /-- `MOV.W Rm,@Rn` (R303). -/
  | movWStore (m : Reg) (n : Reg)
  /-- `MOV.L Rm,@Rn` (R304). -/
  | movLStore (m : Reg) (n : Reg)
  /-- `MOV.B @Rm,Rn` (R305). -/
  | movBLoad (m : Reg) (n : Reg)
  /-- `MOV.W @Rm,Rn` (R306). -/
  | movWLoad (m : Reg) (n : Reg)
  /-- `MOV.L @Rm,Rn` (R307). -/
  | movLLoad (m : Reg) (n : Reg)
  /-- `MOV.B Rm,@-Rn` (R308). -/
  | movBStoreDec (m : Reg) (n : Reg)
  /-- `MOV.W Rm,@-Rn` (R309). -/
  | movWStoreDec (m : Reg) (n : Reg)
  /-- `MOV.L Rm,@-Rn` (R310). -/
  | movLStoreDec (m : Reg) (n : Reg)
  /-- `MOV.B @Rm+,Rn` (R311). -/
  | movBLoadInc (m : Reg) (n : Reg)
  /-- `MOV.W @Rm+,Rn` (R312). -/
  | movWLoadInc (m : Reg) (n : Reg)
  /-- `MOV.L @Rm+,Rn` (R313). -/
  | movLLoadInc (m : Reg) (n : Reg)
  /-- `MOV.B Rm,@(R0,Rn)` (R314). -/
  | movBStoreIdx (m : Reg) (n : Reg)
  /-- `MOV.W Rm,@(R0,Rn)` (R315). -/
  | movWStoreIdx (m : Reg) (n : Reg)
  /-- `MOV.L Rm,@(R0,Rn)` (R316). -/
  | movLStoreIdx (m : Reg) (n : Reg)
  /-- `MOV.B @(R0,Rm),Rn` (R317). -/
  | movBLoadIdx (m : Reg) (n : Reg)
  /-- `MOV.W @(R0,Rm),Rn` (R318). -/
  | movWLoadIdx (m : Reg) (n : Reg)
  /-- `MOV.L @(R0,Rm),Rn` (R319). -/
  | movLLoadIdx (m : Reg) (n : Reg)
  /-- `MOV #imm,Rn` (R320). -/
  | movImm (i : BitVec 8) (n : Reg)
  /-- `MOV.W @(disp,PC),Rn` (R321). -/
  | movWLoadPc (d : BitVec 8) (n : Reg)
  /-- `MOV.L @(disp,PC),Rn` (R322). -/
  | movLLoadPc (d : BitVec 8) (n : Reg)
  /-- `MOV.B @(disp,GBR),R0` (R323). -/
  | movBLoadGbr (d : BitVec 8)
  /-- `MOV.W @(disp,GBR),R0` (R324). -/
  | movWLoadGbr (d : BitVec 8)
  /-- `MOV.L @(disp,GBR),R0` (R325). -/
  | movLLoadGbr (d : BitVec 8)
  /-- `MOV.B R0,@(disp,GBR)` (R326). -/
  | movBStoreGbr (d : BitVec 8)
  /-- `MOV.W R0,@(disp,GBR)` (R327). -/
  | movWStoreGbr (d : BitVec 8)
  /-- `MOV.L R0,@(disp,GBR)` (R328). -/
  | movLStoreGbr (d : BitVec 8)
  /-- `MOV.B R0,@(disp,Rn)` (R329). -/
  | movBStoreDisp (d : BitVec 4) (n : Reg)
  /-- `MOV.W R0,@(disp,Rn)` (R330). -/
  | movWStoreDisp (d : BitVec 4) (n : Reg)
  /-- `MOV.L Rm,@(disp,Rn)` (R331). -/
  | movLStoreDisp (m : Reg) (d : BitVec 4) (n : Reg)
  /-- `MOV.B @(disp,Rm),R0` (R332). -/
  | movBLoadDisp (d : BitVec 4) (m : Reg)
  /-- `MOV.W @(disp,Rm),R0` (R333). -/
  | movWLoadDisp (d : BitVec 4) (m : Reg)
  /-- `MOV.L @(disp,Rm),Rn` (R334). -/
  | movLLoadDisp (d : BitVec 4) (m : Reg) (n : Reg)
  /-- `MOVA @(disp,PC),R0` (R335). -/
  | mova (d : BitVec 8)
  /-- `MOVT Rn` (R336). -/
  | movt (n : Reg)
  /-- `SWAP.B Rm,Rn` (R337). -/
  | swapB (m : Reg) (n : Reg)
  /-- `SWAP.W Rm,Rn` (R338). -/
  | swapW (m : Reg) (n : Reg)
  /-- `XTRCT Rm,Rn` (R339). -/
  | xtrct (m : Reg) (n : Reg)
  -- Cache, linked, unaligned and synchronising instructions (45_cache_sync.md).
  /-- `ICBI @Rn` (R351). -/
  | icbi (n : Reg)
  /-- `MOVCA.L R0,@Rn` (R352). -/
  | movcaL (n : Reg)
  /-- `MOVCO.L R0,@Rn` (R353). -/
  | movcoL (n : Reg)
  /-- `MOVLI.L @Rm,R0` (R354). -/
  | movliL (m : Reg)
  /-- `MOVUA.L @Rm,R0` (R355). -/
  | movuaL (m : Reg)
  /-- `MOVUA.L @Rm+,R0` (R356). -/
  | movuaLInc (m : Reg)
  /-- `OCBI @Rn` (R357). -/
  | ocbi (n : Reg)
  /-- `OCBP @Rn` (R358). -/
  | ocbp (n : Reg)
  /-- `OCBWB @Rn` (R359). -/
  | ocbwb (n : Reg)
  /-- `PREF @Rn` (R360). -/
  | pref (n : Reg)
  /-- `PREFI @Rn` (R361). -/
  | prefi (n : Reg)
  /-- `SYNCO` (R362). -/
  | synco
  -- Shifts and rotates (46_shift.md).
  /-- `ROTCL Rn` (R371). -/
  | rotcl (n : Reg)
  /-- `ROTCR Rn` (R372). -/
  | rotcr (n : Reg)
  /-- `ROTL Rn` (R373). -/
  | rotl (n : Reg)
  /-- `ROTR Rn` (R374). -/
  | rotr (n : Reg)
  /-- `SHAD Rm,Rn` (R375). -/
  | shad (m : Reg) (n : Reg)
  /-- `SHAL Rn` (R376). -/
  | shal (n : Reg)
  /-- `SHAR Rn` (R377). -/
  | shar (n : Reg)
  /-- `SHLD Rm,Rn` (R378). -/
  | shld (m : Reg) (n : Reg)
  /-- `SHLL Rn` (R379). -/
  | shll (n : Reg)
  /-- `SHLL2 Rn` (R380). -/
  | shll2 (n : Reg)
  /-- `SHLL8 Rn` (R381). -/
  | shll8 (n : Reg)
  /-- `SHLL16 Rn` (R382). -/
  | shll16 (n : Reg)
  /-- `SHLR Rn` (R383). -/
  | shlr (n : Reg)
  /-- `SHLR2 Rn` (R384). -/
  | shlr2 (n : Reg)
  /-- `SHLR8 Rn` (R385). -/
  | shlr8 (n : Reg)
  /-- `SHLR16 Rn` (R386). -/
  | shlr16 (n : Reg)
  -- DSP-related control instructions (47_dsp_control.md).
  /-- `CLRDMXY` (R391). -/
  | clrdmxy
  /-- `LDC Rm,SR` (R392). -/
  | ldcSr (m : Reg)
  /-- `LDC Rm,MOD` (R393). -/
  | ldcMod (m : Reg)
  /-- `LDC Rm,RE` (R394). -/
  | ldcRe (m : Reg)
  /-- `LDC Rm,RS` (R395). -/
  | ldcRs (m : Reg)
  /-- `LDC.L @Rm+,SR` (R396). -/
  | ldcLSr (m : Reg)
  /-- `LDC.L @Rm+,MOD` (R397). -/
  | ldcLMod (m : Reg)
  /-- `LDC.L @Rm+,RE` (R398). -/
  | ldcLRe (m : Reg)
  /-- `LDC.L @Rm+,RS` (R399). -/
  | ldcLRs (m : Reg)
  /-- `LDRC Rm` (R400). -/
  | ldrc (m : Reg)
  /-- `LDRC #imm` (R401). -/
  | ldrcImm (i : BitVec 8)
  /-- `LDRE @(disp,PC)` (R402). -/
  | ldre (d : BitVec 8)
  /-- `LDS Rm,DSR` (R403). -/
  | ldsDsr (m : Reg)
  /-- `LDS Rm,A0` (R404). -/
  | ldsA0 (m : Reg)
  /-- `LDS Rm,X0` (R405). -/
  | ldsX0 (m : Reg)
  /-- `LDS Rm,X1` (R406). -/
  | ldsX1 (m : Reg)
  /-- `LDS Rm,Y0` (R407). -/
  | ldsY0 (m : Reg)
  /-- `LDS Rm,Y1` (R408). -/
  | ldsY1 (m : Reg)
  /-- `LDS.L @Rm+,DSR` (R409). -/
  | ldsLDsr (m : Reg)
  /-- `LDS.L @Rm+,A0` (R410). -/
  | ldsLA0 (m : Reg)
  /-- `LDS.L @Rm+,X0` (R411). -/
  | ldsLX0 (m : Reg)
  /-- `LDS.L @Rm+,X1` (R412). -/
  | ldsLX1 (m : Reg)
  /-- `LDS.L @Rm+,Y0` (R413). -/
  | ldsLY0 (m : Reg)
  /-- `LDS.L @Rm+,Y1` (R414). -/
  | ldsLY1 (m : Reg)
  /-- `LDRS @(disp,PC)` (R415). -/
  | ldrs (d : BitVec 8)
  /-- `SETDMX` (R416). -/
  | setdmx
  /-- `SETDMY` (R417). -/
  | setdmy
  /-- `SETRC Rm` (R418). -/
  | setrc (m : Reg)
  /-- `SETRC #imm` (R419). -/
  | setrcImm (i : BitVec 8)
  /-- `STC SR,Rn` (R420). -/
  | stcSr (n : Reg)
  /-- `STC MOD,Rn` (R421). -/
  | stcMod (n : Reg)
  /-- `STC RE,Rn` (R422). -/
  | stcRe (n : Reg)
  /-- `STC RS,Rn` (R423). -/
  | stcRs (n : Reg)
  /-- `STC.L SR,@-Rn` (R424). -/
  | stcLSr (n : Reg)
  /-- `STC.L MOD,@-Rn` (R425). -/
  | stcLMod (n : Reg)
  /-- `STC.L RE,@-Rn` (R426). -/
  | stcLRe (n : Reg)
  /-- `STC.L RS,@-Rn` (R427). -/
  | stcLRs (n : Reg)
  /-- `STS DSR,Rn` (R428). -/
  | stsDsr (n : Reg)
  /-- `STS A0,Rn` (R429). -/
  | stsA0 (n : Reg)
  /-- `STS X0,Rn` (R430). -/
  | stsX0 (n : Reg)
  /-- `STS X1,Rn` (R431). -/
  | stsX1 (n : Reg)
  /-- `STS Y0,Rn` (R432). -/
  | stsY0 (n : Reg)
  /-- `STS Y1,Rn` (R433). -/
  | stsY1 (n : Reg)
  /-- `STS.L DSR,@-Rn` (R434). -/
  | stsLDsr (n : Reg)
  /-- `STS.L A0,@-Rn` (R435). -/
  | stsLA0 (n : Reg)
  /-- `STS.L X0,@-Rn` (R436). -/
  | stsLX0 (n : Reg)
  /-- `STS.L X1,@-Rn` (R437). -/
  | stsLX1 (n : Reg)
  /-- `STS.L Y0,@-Rn` (R438). -/
  | stsLY0 (n : Reg)
  /-- `STS.L Y1,@-Rn` (R439). -/
  | stsLY1 (n : Reg)
  deriving DecidableEq, Repr

end Sys2Proof
end

