-- ==== Sys2Proof/Decode.lean ====
section
/-! DEFINITION. Instruction words and bytes: the fields of a word, the byte order of a word in memory, decoding (total,
rejecting by name) and encoding. (30_encoding.md R110 to R122; 20_memory.md R72.) -/

namespace Sys2Proof

/-! ## The fields of a word (30_encoding.md R111) -/

/-- Bits 15 to 12. -/
def nib3 (w : Half) : BitVec 4 := w.extractLsb' 12 4

/-- Bits 11 to 8. -/
def nib2 (w : Half) : BitVec 4 := w.extractLsb' 8 4

/-- Bits 7 to 4. -/
def nib1 (w : Half) : BitVec 4 := w.extractLsb' 4 4

/-- Bits 3 to 0. -/
def nib0 (w : Half) : BitVec 4 := w.extractLsb' 0 4

/-- Bits 7 to 0: the 8-bit immediate or displacement (R113, R114, R116). -/
def low8 (w : Half) : BitVec 8 := w.extractLsb' 0 8

/-- Bits 11 to 0: the 12-bit displacement (R115). -/
def low12 (w : Half) : BitVec 12 := w.extractLsb' 0 12

/-- Bits 6 to 4: the bank register field (R118). -/
def bankField (w : Half) : BankReg := (nib1 w).extractLsb' 0 3

/-- A word of four 4-bit parts, the most significant first. -/
def word4 (a b c d : BitVec 4) : Half := a ++ b ++ c ++ d

/-- A word of two 4-bit parts and one of 8 bits, the most significant first. -/
def word448 (a b : BitVec 4) (i : BitVec 8) : Half := a ++ b ++ i

/-- A word of a 4-bit part and one of 12 bits, the most significant first. -/
def word412 (a : BitVec 4) (d : BitVec 12) : Half := a ++ d

/-! ## Decoding -/

/-- Why bytes are no instruction. -/
inductive DecodeError where
  /-- The word matches no row and its top nibble is not 1111 (R121). -/
  | undefinedWord
  /-- The word has top nibble 1111, the DSP unit's space, which this spec gives no meaning (R122). -/
  | dspSpace
  /-- There are fewer than two bytes. -/
  | tooShort
  deriving DecidableEq, Repr

/-- The rows of top nibble H'0 and last nibble H'2 (R120). -/
def decode0x2 (w : Half) : Option Instr :=
  if (nib1 w).msb then .some (.stcBank (bankField w) (nib2 w)) else
  match (nib1 w).toNat with
  | 0x0 => .some (.stcSr (nib2 w))
  | 0x1 => .some (.stcGbr (nib2 w))
  | 0x2 => .some (.stcVbr (nib2 w))
  | 0x3 => .some (.stcSsr (nib2 w))
  | 0x4 => .some (.stcSpc (nib2 w))
  | 0x5 => .some (.stcMod (nib2 w))
  | 0x6 => .some (.stcRs (nib2 w))
  | 0x7 => .some (.stcRe (nib2 w))
  | _ => .none

/-- The rows of top nibble H'0 and last nibble H'3 (R120). -/
def decode0x3 (w : Half) : Option Instr :=
  match (nib1 w).toNat with
  | 0x0 => .some (.bsrf (nib2 w))
  | 0x2 => .some (.braf (nib2 w))
  | 0x6 => .some (.movliL (nib2 w))
  | 0x7 => .some (.movcoL (nib2 w))
  | 0x8 => .some (.pref (nib2 w))
  | 0x9 => .some (.ocbi (nib2 w))
  | 0xA => .some (.ocbp (nib2 w))
  | 0xB => .some (.ocbwb (nib2 w))
  | 0xC => .some (.movcaL (nib2 w))
  | 0xD => .some (.prefi (nib2 w))
  | 0xE => .some (.icbi (nib2 w))
  | _ => .none

/-- The rows of top nibble H'0 and last nibble H'8 (R120). -/
def decode0x8 (w : Half) : Option Instr :=
  match (nib1 w).toNat with
  | 0x0 => if nib2 w = 0x0 then .some .clrt else .none
  | 0x1 => if nib2 w = 0x0 then .some .sett else .none
  | 0x2 => if nib2 w = 0x0 then .some .clrmac else .none
  | 0x3 => if nib2 w = 0x0 then .some .ldtlb else .none
  | 0x4 => if nib2 w = 0x0 then .some .clrs else .none
  | 0x5 => if nib2 w = 0x0 then .some .sets else .none
  | 0x8 => if nib2 w = 0x0 then .some .clrdmxy else .none
  | 0x9 => if nib2 w = 0x0 then .some .setdmx else .none
  | 0xC => if nib2 w = 0x0 then .some .setdmy else .none
  | _ => .none

/-- The rows of top nibble H'0 and last nibble H'9 (R120). -/
def decode0x9 (w : Half) : Option Instr :=
  match (nib1 w).toNat with
  | 0x0 => if nib2 w = 0x0 then .some .nop else .none
  | 0x1 => if nib2 w = 0x0 then .some .div0u else .none
  | 0x2 => .some (.movt (nib2 w))
  | _ => .none

/-- The rows of top nibble H'0 and last nibble H'A (R120). -/
def decode0xA (w : Half) : Option Instr :=
  match (nib1 w).toNat with
  | 0x0 => .some (.stsMach (nib2 w))
  | 0x1 => .some (.stsMacl (nib2 w))
  | 0x2 => .some (.stsPr (nib2 w))
  | 0x3 => .some (.stcSgr (nib2 w))
  | 0x6 => .some (.stsDsr (nib2 w))
  | 0x7 => .some (.stsA0 (nib2 w))
  | 0x8 => .some (.stsX0 (nib2 w))
  | 0x9 => .some (.stsX1 (nib2 w))
  | 0xA => .some (.stsY0 (nib2 w))
  | 0xB => .some (.stsY1 (nib2 w))
  | 0xF => .some (.stcDbr (nib2 w))
  | _ => .none

/-- The rows of top nibble H'0 and last nibble H'B (R120). -/
def decode0xB (w : Half) : Option Instr :=
  match (nib1 w).toNat with
  | 0x0 => if nib2 w = 0x0 then .some .rts else .none
  | 0x1 => if nib2 w = 0x0 then .some .sleep else .none
  | 0x2 => if nib2 w = 0x0 then .some .rte else .none
  | 0xA => if nib2 w = 0x0 then .some .synco else .none
  | _ => .none

/-- The rows of top nibble H'0 (R120). -/
def decode0 (w : Half) : Option Instr :=
  match (nib0 w).toNat with
  | 0x2 => decode0x2 w
  | 0x3 => decode0x3 w
  | 0x4 => .some (.movBStoreIdx (nib1 w) (nib2 w))
  | 0x5 => .some (.movWStoreIdx (nib1 w) (nib2 w))
  | 0x6 => .some (.movLStoreIdx (nib1 w) (nib2 w))
  | 0x7 => .some (.mulL (nib1 w) (nib2 w))
  | 0x8 => decode0x8 w
  | 0x9 => decode0x9 w
  | 0xA => decode0xA w
  | 0xB => decode0xB w
  | 0xC => .some (.movBLoadIdx (nib1 w) (nib2 w))
  | 0xD => .some (.movWLoadIdx (nib1 w) (nib2 w))
  | 0xE => .some (.movLLoadIdx (nib1 w) (nib2 w))
  | 0xF => .some (.macL (nib1 w) (nib2 w))
  | _ => .none

/-- The rows of top nibble H'2 (R120). -/
def decode2 (w : Half) : Option Instr :=
  match (nib0 w).toNat with
  | 0x0 => .some (.movBStore (nib1 w) (nib2 w))
  | 0x1 => .some (.movWStore (nib1 w) (nib2 w))
  | 0x2 => .some (.movLStore (nib1 w) (nib2 w))
  | 0x4 => .some (.movBStoreDec (nib1 w) (nib2 w))
  | 0x5 => .some (.movWStoreDec (nib1 w) (nib2 w))
  | 0x6 => .some (.movLStoreDec (nib1 w) (nib2 w))
  | 0x7 => .some (.div0s (nib1 w) (nib2 w))
  | 0x8 => .some (.tstReg (nib1 w) (nib2 w))
  | 0x9 => .some (.andReg (nib1 w) (nib2 w))
  | 0xA => .some (.xorReg (nib1 w) (nib2 w))
  | 0xB => .some (.orReg (nib1 w) (nib2 w))
  | 0xC => .some (.cmpStr (nib1 w) (nib2 w))
  | 0xD => .some (.xtrct (nib1 w) (nib2 w))
  | 0xE => .some (.muluW (nib1 w) (nib2 w))
  | 0xF => .some (.mulsW (nib1 w) (nib2 w))
  | _ => .none

/-- The rows of top nibble H'3 (R120). -/
def decode3 (w : Half) : Option Instr :=
  match (nib0 w).toNat with
  | 0x0 => .some (.cmpEq (nib1 w) (nib2 w))
  | 0x2 => .some (.cmpHs (nib1 w) (nib2 w))
  | 0x3 => .some (.cmpGe (nib1 w) (nib2 w))
  | 0x4 => .some (.div1 (nib1 w) (nib2 w))
  | 0x5 => .some (.dmuluL (nib1 w) (nib2 w))
  | 0x6 => .some (.cmpHi (nib1 w) (nib2 w))
  | 0x7 => .some (.cmpGt (nib1 w) (nib2 w))
  | 0x8 => .some (.sub (nib1 w) (nib2 w))
  | 0xA => .some (.subc (nib1 w) (nib2 w))
  | 0xB => .some (.subv (nib1 w) (nib2 w))
  | 0xC => .some (.add (nib1 w) (nib2 w))
  | 0xD => .some (.dmulsL (nib1 w) (nib2 w))
  | 0xE => .some (.addc (nib1 w) (nib2 w))
  | 0xF => .some (.addv (nib1 w) (nib2 w))
  | _ => .none

/-- The rows of top nibble H'4 and last nibble H'0 (R120). -/
def decode4x0 (w : Half) : Option Instr :=
  match (nib1 w).toNat with
  | 0x0 => .some (.shll (nib2 w))
  | 0x1 => .some (.dt (nib2 w))
  | 0x2 => .some (.shal (nib2 w))
  | _ => .none

/-- The rows of top nibble H'4 and last nibble H'1 (R120). -/
def decode4x1 (w : Half) : Option Instr :=
  match (nib1 w).toNat with
  | 0x0 => .some (.shlr (nib2 w))
  | 0x1 => .some (.cmpPz (nib2 w))
  | 0x2 => .some (.shar (nib2 w))
  | _ => .none

/-- The rows of top nibble H'4 and last nibble H'2 (R120). -/
def decode4x2 (w : Half) : Option Instr :=
  match (nib1 w).toNat with
  | 0x0 => .some (.stsLMach (nib2 w))
  | 0x1 => .some (.stsLMacl (nib2 w))
  | 0x2 => .some (.stsLPr (nib2 w))
  | 0x3 => .some (.stcLSgr (nib2 w))
  | 0x6 => .some (.stsLDsr (nib2 w))
  | 0x7 => .some (.stsLA0 (nib2 w))
  | 0x8 => .some (.stsLX0 (nib2 w))
  | 0x9 => .some (.stsLX1 (nib2 w))
  | 0xA => .some (.stsLY0 (nib2 w))
  | 0xB => .some (.stsLY1 (nib2 w))
  | 0xF => .some (.stcLDbr (nib2 w))
  | _ => .none

/-- The rows of top nibble H'4 and last nibble H'3 (R120). -/
def decode4x3 (w : Half) : Option Instr :=
  if (nib1 w).msb then .some (.stcLBank (bankField w) (nib2 w)) else
  match (nib1 w).toNat with
  | 0x0 => .some (.stcLSr (nib2 w))
  | 0x1 => .some (.stcLGbr (nib2 w))
  | 0x2 => .some (.stcLVbr (nib2 w))
  | 0x3 => .some (.stcLSsr (nib2 w))
  | 0x4 => .some (.stcLSpc (nib2 w))
  | 0x5 => .some (.stcLMod (nib2 w))
  | 0x6 => .some (.stcLRs (nib2 w))
  | 0x7 => .some (.stcLRe (nib2 w))
  | _ => .none

/-- The rows of top nibble H'4 and last nibble H'4 (R120). -/
def decode4x4 (w : Half) : Option Instr :=
  match (nib1 w).toNat with
  | 0x0 => .some (.rotl (nib2 w))
  | 0x1 => .some (.setrc (nib2 w))
  | 0x2 => .some (.rotcl (nib2 w))
  | 0x3 => .some (.ldrc (nib2 w))
  | _ => .none

/-- The rows of top nibble H'4 and last nibble H'5 (R120). -/
def decode4x5 (w : Half) : Option Instr :=
  match (nib1 w).toNat with
  | 0x0 => .some (.rotr (nib2 w))
  | 0x1 => .some (.cmpPl (nib2 w))
  | 0x2 => .some (.rotcr (nib2 w))
  | _ => .none

/-- The rows of top nibble H'4 and last nibble H'6 (R120). -/
def decode4x6 (w : Half) : Option Instr :=
  match (nib1 w).toNat with
  | 0x0 => .some (.ldsLMach (nib2 w))
  | 0x1 => .some (.ldsLMacl (nib2 w))
  | 0x2 => .some (.ldsLPr (nib2 w))
  | 0x3 => .some (.ldcLSgr (nib2 w))
  | 0x6 => .some (.ldsLDsr (nib2 w))
  | 0x7 => .some (.ldsLA0 (nib2 w))
  | 0x8 => .some (.ldsLX0 (nib2 w))
  | 0x9 => .some (.ldsLX1 (nib2 w))
  | 0xA => .some (.ldsLY0 (nib2 w))
  | 0xB => .some (.ldsLY1 (nib2 w))
  | 0xF => .some (.ldcLDbr (nib2 w))
  | _ => .none

/-- The rows of top nibble H'4 and last nibble H'7 (R120). -/
def decode4x7 (w : Half) : Option Instr :=
  if (nib1 w).msb then .some (.ldcLBank (nib2 w) (bankField w)) else
  match (nib1 w).toNat with
  | 0x0 => .some (.ldcLSr (nib2 w))
  | 0x1 => .some (.ldcLGbr (nib2 w))
  | 0x2 => .some (.ldcLVbr (nib2 w))
  | 0x3 => .some (.ldcLSsr (nib2 w))
  | 0x4 => .some (.ldcLSpc (nib2 w))
  | 0x5 => .some (.ldcLMod (nib2 w))
  | 0x6 => .some (.ldcLRs (nib2 w))
  | 0x7 => .some (.ldcLRe (nib2 w))
  | _ => .none

/-- The rows of top nibble H'4 and last nibble H'8 (R120). -/
def decode4x8 (w : Half) : Option Instr :=
  match (nib1 w).toNat with
  | 0x0 => .some (.shll2 (nib2 w))
  | 0x1 => .some (.shll8 (nib2 w))
  | 0x2 => .some (.shll16 (nib2 w))
  | _ => .none

/-- The rows of top nibble H'4 and last nibble H'9 (R120). -/
def decode4x9 (w : Half) : Option Instr :=
  match (nib1 w).toNat with
  | 0x0 => .some (.shlr2 (nib2 w))
  | 0x1 => .some (.shlr8 (nib2 w))
  | 0x2 => .some (.shlr16 (nib2 w))
  | 0xA => .some (.movuaL (nib2 w))
  | 0xE => .some (.movuaLInc (nib2 w))
  | _ => .none

/-- The rows of top nibble H'4 and last nibble H'A (R120). -/
def decode4xA (w : Half) : Option Instr :=
  match (nib1 w).toNat with
  | 0x0 => .some (.ldsMach (nib2 w))
  | 0x1 => .some (.ldsMacl (nib2 w))
  | 0x2 => .some (.ldsPr (nib2 w))
  | 0x3 => .some (.ldcSgr (nib2 w))
  | 0x6 => .some (.ldsDsr (nib2 w))
  | 0x7 => .some (.ldsA0 (nib2 w))
  | 0x8 => .some (.ldsX0 (nib2 w))
  | 0x9 => .some (.ldsX1 (nib2 w))
  | 0xA => .some (.ldsY0 (nib2 w))
  | 0xB => .some (.ldsY1 (nib2 w))
  | 0xF => .some (.ldcDbr (nib2 w))
  | _ => .none

/-- The rows of top nibble H'4 and last nibble H'B (R120). -/
def decode4xB (w : Half) : Option Instr :=
  match (nib1 w).toNat with
  | 0x0 => .some (.jsr (nib2 w))
  | 0x1 => .some (.tasB (nib2 w))
  | 0x2 => .some (.jmp (nib2 w))
  | _ => .none

/-- The rows of top nibble H'4 and last nibble H'E (R120). -/
def decode4xE (w : Half) : Option Instr :=
  if (nib1 w).msb then .some (.ldcBank (nib2 w) (bankField w)) else
  match (nib1 w).toNat with
  | 0x0 => .some (.ldcSr (nib2 w))
  | 0x1 => .some (.ldcGbr (nib2 w))
  | 0x2 => .some (.ldcVbr (nib2 w))
  | 0x3 => .some (.ldcSsr (nib2 w))
  | 0x4 => .some (.ldcSpc (nib2 w))
  | 0x5 => .some (.ldcMod (nib2 w))
  | 0x6 => .some (.ldcRs (nib2 w))
  | 0x7 => .some (.ldcRe (nib2 w))
  | _ => .none

/-- The rows of top nibble H'4 (R120). -/
def decode4 (w : Half) : Option Instr :=
  match (nib0 w).toNat with
  | 0x0 => decode4x0 w
  | 0x1 => decode4x1 w
  | 0x2 => decode4x2 w
  | 0x3 => decode4x3 w
  | 0x4 => decode4x4 w
  | 0x5 => decode4x5 w
  | 0x6 => decode4x6 w
  | 0x7 => decode4x7 w
  | 0x8 => decode4x8 w
  | 0x9 => decode4x9 w
  | 0xA => decode4xA w
  | 0xB => decode4xB w
  | 0xC => .some (.shad (nib1 w) (nib2 w))
  | 0xD => .some (.shld (nib1 w) (nib2 w))
  | 0xE => decode4xE w
  | 0xF => .some (.macW (nib1 w) (nib2 w))
  | _ => .none

/-- The rows of top nibble H'6 (R120). -/
def decode6 (w : Half) : Option Instr :=
  match (nib0 w).toNat with
  | 0x0 => .some (.movBLoad (nib1 w) (nib2 w))
  | 0x1 => .some (.movWLoad (nib1 w) (nib2 w))
  | 0x2 => .some (.movLLoad (nib1 w) (nib2 w))
  | 0x3 => .some (.mov (nib1 w) (nib2 w))
  | 0x4 => .some (.movBLoadInc (nib1 w) (nib2 w))
  | 0x5 => .some (.movWLoadInc (nib1 w) (nib2 w))
  | 0x6 => .some (.movLLoadInc (nib1 w) (nib2 w))
  | 0x7 => .some (.notReg (nib1 w) (nib2 w))
  | 0x8 => .some (.swapB (nib1 w) (nib2 w))
  | 0x9 => .some (.swapW (nib1 w) (nib2 w))
  | 0xA => .some (.negc (nib1 w) (nib2 w))
  | 0xB => .some (.neg (nib1 w) (nib2 w))
  | 0xC => .some (.extuB (nib1 w) (nib2 w))
  | 0xD => .some (.extuW (nib1 w) (nib2 w))
  | 0xE => .some (.extsB (nib1 w) (nib2 w))
  | 0xF => .some (.extsW (nib1 w) (nib2 w))
  | _ => .none

/-- The rows of top nibble H'8 (R120). -/
def decode8 (w : Half) : Option Instr :=
  match (nib2 w).toNat with
  | 0x0 => .some (.movBStoreDisp (nib0 w) (nib1 w))
  | 0x1 => .some (.movWStoreDisp (nib0 w) (nib1 w))
  | 0x2 => .some (.setrcImm (low8 w))
  | 0x4 => .some (.movBLoadDisp (nib0 w) (nib1 w))
  | 0x5 => .some (.movWLoadDisp (nib0 w) (nib1 w))
  | 0x8 => .some (.cmpEqImm (low8 w))
  | 0x9 => .some (.bt (low8 w))
  | 0xA => .some (.ldrcImm (low8 w))
  | 0xB => .some (.bf (low8 w))
  | 0xC => .some (.ldrs (low8 w))
  | 0xD => .some (.btS (low8 w))
  | 0xE => .some (.ldre (low8 w))
  | 0xF => .some (.bfS (low8 w))
  | _ => .none

/-- The rows of top nibble H'C (R120). -/
def decodeC (w : Half) : Option Instr :=
  match (nib2 w).toNat with
  | 0x0 => .some (.movBStoreGbr (low8 w))
  | 0x1 => .some (.movWStoreGbr (low8 w))
  | 0x2 => .some (.movLStoreGbr (low8 w))
  | 0x3 => .some (.trapa (low8 w))
  | 0x4 => .some (.movBLoadGbr (low8 w))
  | 0x5 => .some (.movWLoadGbr (low8 w))
  | 0x6 => .some (.movLLoadGbr (low8 w))
  | 0x7 => .some (.mova (low8 w))
  | 0x8 => .some (.tstImm (low8 w))
  | 0x9 => .some (.andImm (low8 w))
  | 0xA => .some (.xorImm (low8 w))
  | 0xB => .some (.orImm (low8 w))
  | 0xC => .some (.tstB (low8 w))
  | 0xD => .some (.andB (low8 w))
  | 0xE => .some (.xorB (low8 w))
  | 0xF => .some (.orB (low8 w))
  | _ => .none

/-- The row of the opcode map a word matches, if any (R119, R120). -/
def decodeRow (w : Half) : Option Instr :=
  match (nib3 w).toNat with
  | 0x0 => decode0 w
  | 0x1 => .some (.movLStoreDisp (nib1 w) (nib0 w) (nib2 w))
  | 0x2 => decode2 w
  | 0x3 => decode3 w
  | 0x4 => decode4 w
  | 0x5 => .some (.movLLoadDisp (nib0 w) (nib1 w) (nib2 w))
  | 0x6 => decode6 w
  | 0x7 => .some (.addImm (low8 w) (nib2 w))
  | 0x8 => decode8 w
  | 0x9 => .some (.movWLoadPc (low8 w) (nib2 w))
  | 0xA => .some (.bra (low12 w))
  | 0xB => .some (.bsr (low12 w))
  | 0xC => decodeC w
  | 0xD => .some (.movLLoadPc (low8 w) (nib2 w))
  | 0xE => .some (.movImm (low8 w) (nib2 w))
  | _ => .none

/-- Decode a word: its instruction, or the name of why it has none (R119, R121, R122). -/
def decode (w : Half) : Except DecodeError Instr :=
  match decodeRow w with
  | some i => .ok i
  | none => if nib3 w = 0xF then .error .dspSpace else .error .undefinedWord

/-! ## Encoding -/

/-- The word of an instruction, written from the instruction codes of R120. -/
def encode : Instr → Half
  | .add m n => word4 0x3 n m 0xC
  | .addImm i n => word448 0x7 n i
  | .addc m n => word4 0x3 n m 0xE
  | .addv m n => word4 0x3 n m 0xF
  | .cmpEq m n => word4 0x3 n m 0x0
  | .cmpGe m n => word4 0x3 n m 0x3
  | .cmpGt m n => word4 0x3 n m 0x7
  | .cmpHi m n => word4 0x3 n m 0x6
  | .cmpHs m n => word4 0x3 n m 0x2
  | .cmpPl n => word4 0x4 n 0x1 0x5
  | .cmpPz n => word4 0x4 n 0x1 0x1
  | .cmpStr m n => word4 0x2 n m 0xC
  | .cmpEqImm i => word448 0x8 0x8 i
  | .div0s m n => word4 0x2 n m 0x7
  | .div0u => word4 0x0 0x0 0x1 0x9
  | .div1 m n => word4 0x3 n m 0x4
  | .dmulsL m n => word4 0x3 n m 0xD
  | .dmuluL m n => word4 0x3 n m 0x5
  | .dt n => word4 0x4 n 0x1 0x0
  | .extsB m n => word4 0x6 n m 0xE
  | .extsW m n => word4 0x6 n m 0xF
  | .extuB m n => word4 0x6 n m 0xC
  | .extuW m n => word4 0x6 n m 0xD
  | .macL m n => word4 0x0 n m 0xF
  | .macW m n => word4 0x4 n m 0xF
  | .mulL m n => word4 0x0 n m 0x7
  | .mulsW m n => word4 0x2 n m 0xF
  | .muluW m n => word4 0x2 n m 0xE
  | .neg m n => word4 0x6 n m 0xB
  | .negc m n => word4 0x6 n m 0xA
  | .sub m n => word4 0x3 n m 0x8
  | .subc m n => word4 0x3 n m 0xA
  | .subv m n => word4 0x3 n m 0xB
  | .andReg m n => word4 0x2 n m 0x9
  | .andImm i => word448 0xC 0x9 i
  | .andB i => word448 0xC 0xD i
  | .notReg m n => word4 0x6 n m 0x7
  | .orReg m n => word4 0x2 n m 0xB
  | .orImm i => word448 0xC 0xB i
  | .orB i => word448 0xC 0xF i
  | .tasB n => word4 0x4 n 0x1 0xB
  | .tstReg m n => word4 0x2 n m 0x8
  | .tstImm i => word448 0xC 0x8 i
  | .tstB i => word448 0xC 0xC i
  | .xorReg m n => word4 0x2 n m 0xA
  | .xorImm i => word448 0xC 0xA i
  | .xorB i => word448 0xC 0xE i
  | .bf d => word448 0x8 0xB d
  | .bfS d => word448 0x8 0xF d
  | .bra d => word412 0xA d
  | .braf n => word4 0x0 n 0x2 0x3
  | .bt d => word448 0x8 0x9 d
  | .btS d => word448 0x8 0xD d
  | .jmp n => word4 0x4 n 0x2 0xB
  | .rts => word4 0x0 0x0 0x0 0xB
  | .bsr d => word412 0xB d
  | .bsrf n => word4 0x0 n 0x0 0x3
  | .jsr n => word4 0x4 n 0x0 0xB
  | .clrmac => word4 0x0 0x0 0x2 0x8
  | .clrs => word4 0x0 0x0 0x4 0x8
  | .clrt => word4 0x0 0x0 0x0 0x8
  | .ldcGbr m => word4 0x4 m 0x1 0xE
  | .ldcVbr m => word4 0x4 m 0x2 0xE
  | .ldcSgr m => word4 0x4 m 0x3 0xA
  | .ldcSsr m => word4 0x4 m 0x3 0xE
  | .ldcSpc m => word4 0x4 m 0x4 0xE
  | .ldcDbr m => word4 0x4 m 0xF 0xA
  | .ldcBank m b => word4 0x4 m (1#1 ++ b) 0xE
  | .ldcLGbr m => word4 0x4 m 0x1 0x7
  | .ldcLVbr m => word4 0x4 m 0x2 0x7
  | .ldcLSgr m => word4 0x4 m 0x3 0x6
  | .ldcLSsr m => word4 0x4 m 0x3 0x7
  | .ldcLSpc m => word4 0x4 m 0x4 0x7
  | .ldcLDbr m => word4 0x4 m 0xF 0x6
  | .ldcLBank m b => word4 0x4 m (1#1 ++ b) 0x7
  | .ldsMach m => word4 0x4 m 0x0 0xA
  | .ldsMacl m => word4 0x4 m 0x1 0xA
  | .ldsPr m => word4 0x4 m 0x2 0xA
  | .ldsLMach m => word4 0x4 m 0x0 0x6
  | .ldsLMacl m => word4 0x4 m 0x1 0x6
  | .ldsLPr m => word4 0x4 m 0x2 0x6
  | .ldtlb => word4 0x0 0x0 0x3 0x8
  | .nop => word4 0x0 0x0 0x0 0x9
  | .rte => word4 0x0 0x0 0x2 0xB
  | .sets => word4 0x0 0x0 0x5 0x8
  | .sett => word4 0x0 0x0 0x1 0x8
  | .sleep => word4 0x0 0x0 0x1 0xB
  | .stcGbr n => word4 0x0 n 0x1 0x2
  | .stcVbr n => word4 0x0 n 0x2 0x2
  | .stcSsr n => word4 0x0 n 0x3 0x2
  | .stcSpc n => word4 0x0 n 0x4 0x2
  | .stcSgr n => word4 0x0 n 0x3 0xA
  | .stcDbr n => word4 0x0 n 0xF 0xA
  | .stcBank b n => word4 0x0 n (1#1 ++ b) 0x2
  | .stcLGbr n => word4 0x4 n 0x1 0x3
  | .stcLVbr n => word4 0x4 n 0x2 0x3
  | .stcLSsr n => word4 0x4 n 0x3 0x3
  | .stcLSpc n => word4 0x4 n 0x4 0x3
  | .stcLSgr n => word4 0x4 n 0x3 0x2
  | .stcLDbr n => word4 0x4 n 0xF 0x2
  | .stcLBank b n => word4 0x4 n (1#1 ++ b) 0x3
  | .stsMach n => word4 0x0 n 0x0 0xA
  | .stsMacl n => word4 0x0 n 0x1 0xA
  | .stsPr n => word4 0x0 n 0x2 0xA
  | .stsLMach n => word4 0x4 n 0x0 0x2
  | .stsLMacl n => word4 0x4 n 0x1 0x2
  | .stsLPr n => word4 0x4 n 0x2 0x2
  | .trapa i => word448 0xC 0x3 i
  | .mov m n => word4 0x6 n m 0x3
  | .movBStore m n => word4 0x2 n m 0x0
  | .movWStore m n => word4 0x2 n m 0x1
  | .movLStore m n => word4 0x2 n m 0x2
  | .movBLoad m n => word4 0x6 n m 0x0
  | .movWLoad m n => word4 0x6 n m 0x1
  | .movLLoad m n => word4 0x6 n m 0x2
  | .movBStoreDec m n => word4 0x2 n m 0x4
  | .movWStoreDec m n => word4 0x2 n m 0x5
  | .movLStoreDec m n => word4 0x2 n m 0x6
  | .movBLoadInc m n => word4 0x6 n m 0x4
  | .movWLoadInc m n => word4 0x6 n m 0x5
  | .movLLoadInc m n => word4 0x6 n m 0x6
  | .movBStoreIdx m n => word4 0x0 n m 0x4
  | .movWStoreIdx m n => word4 0x0 n m 0x5
  | .movLStoreIdx m n => word4 0x0 n m 0x6
  | .movBLoadIdx m n => word4 0x0 n m 0xC
  | .movWLoadIdx m n => word4 0x0 n m 0xD
  | .movLLoadIdx m n => word4 0x0 n m 0xE
  | .movImm i n => word448 0xE n i
  | .movWLoadPc d n => word448 0x9 n d
  | .movLLoadPc d n => word448 0xD n d
  | .movBLoadGbr d => word448 0xC 0x4 d
  | .movWLoadGbr d => word448 0xC 0x5 d
  | .movLLoadGbr d => word448 0xC 0x6 d
  | .movBStoreGbr d => word448 0xC 0x0 d
  | .movWStoreGbr d => word448 0xC 0x1 d
  | .movLStoreGbr d => word448 0xC 0x2 d
  | .movBStoreDisp d n => word4 0x8 0x0 n d
  | .movWStoreDisp d n => word4 0x8 0x1 n d
  | .movLStoreDisp m d n => word4 0x1 n m d
  | .movBLoadDisp d m => word4 0x8 0x4 m d
  | .movWLoadDisp d m => word4 0x8 0x5 m d
  | .movLLoadDisp d m n => word4 0x5 n m d
  | .mova d => word448 0xC 0x7 d
  | .movt n => word4 0x0 n 0x2 0x9
  | .swapB m n => word4 0x6 n m 0x8
  | .swapW m n => word4 0x6 n m 0x9
  | .xtrct m n => word4 0x2 n m 0xD
  | .icbi n => word4 0x0 n 0xE 0x3
  | .movcaL n => word4 0x0 n 0xC 0x3
  | .movcoL n => word4 0x0 n 0x7 0x3
  | .movliL m => word4 0x0 m 0x6 0x3
  | .movuaL m => word4 0x4 m 0xA 0x9
  | .movuaLInc m => word4 0x4 m 0xE 0x9
  | .ocbi n => word4 0x0 n 0x9 0x3
  | .ocbp n => word4 0x0 n 0xA 0x3
  | .ocbwb n => word4 0x0 n 0xB 0x3
  | .pref n => word4 0x0 n 0x8 0x3
  | .prefi n => word4 0x0 n 0xD 0x3
  | .synco => word4 0x0 0x0 0xA 0xB
  | .rotcl n => word4 0x4 n 0x2 0x4
  | .rotcr n => word4 0x4 n 0x2 0x5
  | .rotl n => word4 0x4 n 0x0 0x4
  | .rotr n => word4 0x4 n 0x0 0x5
  | .shad m n => word4 0x4 n m 0xC
  | .shal n => word4 0x4 n 0x2 0x0
  | .shar n => word4 0x4 n 0x2 0x1
  | .shld m n => word4 0x4 n m 0xD
  | .shll n => word4 0x4 n 0x0 0x0
  | .shll2 n => word4 0x4 n 0x0 0x8
  | .shll8 n => word4 0x4 n 0x1 0x8
  | .shll16 n => word4 0x4 n 0x2 0x8
  | .shlr n => word4 0x4 n 0x0 0x1
  | .shlr2 n => word4 0x4 n 0x0 0x9
  | .shlr8 n => word4 0x4 n 0x1 0x9
  | .shlr16 n => word4 0x4 n 0x2 0x9
  | .clrdmxy => word4 0x0 0x0 0x8 0x8
  | .ldcSr m => word4 0x4 m 0x0 0xE
  | .ldcMod m => word4 0x4 m 0x5 0xE
  | .ldcRe m => word4 0x4 m 0x7 0xE
  | .ldcRs m => word4 0x4 m 0x6 0xE
  | .ldcLSr m => word4 0x4 m 0x0 0x7
  | .ldcLMod m => word4 0x4 m 0x5 0x7
  | .ldcLRe m => word4 0x4 m 0x7 0x7
  | .ldcLRs m => word4 0x4 m 0x6 0x7
  | .ldrc m => word4 0x4 m 0x3 0x4
  | .ldrcImm i => word448 0x8 0xA i
  | .ldre d => word448 0x8 0xE d
  | .ldsDsr m => word4 0x4 m 0x6 0xA
  | .ldsA0 m => word4 0x4 m 0x7 0xA
  | .ldsX0 m => word4 0x4 m 0x8 0xA
  | .ldsX1 m => word4 0x4 m 0x9 0xA
  | .ldsY0 m => word4 0x4 m 0xA 0xA
  | .ldsY1 m => word4 0x4 m 0xB 0xA
  | .ldsLDsr m => word4 0x4 m 0x6 0x6
  | .ldsLA0 m => word4 0x4 m 0x7 0x6
  | .ldsLX0 m => word4 0x4 m 0x8 0x6
  | .ldsLX1 m => word4 0x4 m 0x9 0x6
  | .ldsLY0 m => word4 0x4 m 0xA 0x6
  | .ldsLY1 m => word4 0x4 m 0xB 0x6
  | .ldrs d => word448 0x8 0xC d
  | .setdmx => word4 0x0 0x0 0x9 0x8
  | .setdmy => word4 0x0 0x0 0xC 0x8
  | .setrc m => word4 0x4 m 0x1 0x4
  | .setrcImm i => word448 0x8 0x2 i
  | .stcSr n => word4 0x0 n 0x0 0x2
  | .stcMod n => word4 0x0 n 0x5 0x2
  | .stcRe n => word4 0x0 n 0x7 0x2
  | .stcRs n => word4 0x0 n 0x6 0x2
  | .stcLSr n => word4 0x4 n 0x0 0x3
  | .stcLMod n => word4 0x4 n 0x5 0x3
  | .stcLRe n => word4 0x4 n 0x7 0x3
  | .stcLRs n => word4 0x4 n 0x6 0x3
  | .stsDsr n => word4 0x0 n 0x6 0xA
  | .stsA0 n => word4 0x0 n 0x7 0xA
  | .stsX0 n => word4 0x0 n 0x8 0xA
  | .stsX1 n => word4 0x0 n 0x9 0xA
  | .stsY0 n => word4 0x0 n 0xA 0xA
  | .stsY1 n => word4 0x0 n 0xB 0xA
  | .stsLDsr n => word4 0x4 n 0x6 0x2
  | .stsLA0 n => word4 0x4 n 0x7 0x2
  | .stsLX0 n => word4 0x4 n 0x8 0x2
  | .stsLX1 n => word4 0x4 n 0x9 0x2
  | .stsLY0 n => word4 0x4 n 0xA 0x2
  | .stsLY1 n => word4 0x4 n 0xB 0x2

/-! ## Words in memory (20_memory.md R72) -/

/-- The word that two bytes make, the one of the lower address first (R72). -/
def joinHalf (e : Config.Endian) (b0 b1 : Byte) : Half :=
  match e with
  | .big => b0 ++ b1
  | .little => b1 ++ b0

/-- The longword that four bytes make, by rising address (R72). -/
def joinLong (e : Config.Endian) (b0 b1 b2 b3 : Byte) : Word :=
  match e with
  | .big => b0 ++ b1 ++ b2 ++ b3
  | .little => b3 ++ b2 ++ b1 ++ b0

/-- The two bytes of a word by rising address (R72). -/
def splitHalf (e : Config.Endian) (v : Half) : Byte × Byte :=
  match e with
  | .big => (v.extractLsb' 8 8, v.extractLsb' 0 8)
  | .little => (v.extractLsb' 0 8, v.extractLsb' 8 8)

/-- The four bytes of a longword by rising address (R72). -/
def splitLong (e : Config.Endian) (v : Word) : Byte × Byte × Byte × Byte :=
  match e with
  | .big => (v.extractLsb' 24 8, v.extractLsb' 16 8, v.extractLsb' 8 8, v.extractLsb' 0 8)
  | .little => (v.extractLsb' 0 8, v.extractLsb' 8 8, v.extractLsb' 16 8, v.extractLsb' 24 8)

/-- Decode the instruction at the head of a list of bytes, giving it and the bytes after it; every instruction is
two bytes (R110). -/
def decodeBytes (e : Config.Endian) : List Byte → Except DecodeError (Instr × List Byte)
  | b0 :: b1 :: rest =>
    match decode (joinHalf e b0 b1) with
    | .ok i => .ok (i, rest)
    | .error r => .error r
  | _ => .error .tooShort

/-- The bytes of an instruction as memory holds them. -/
def encodeBytes (e : Config.Endian) (i : Instr) : List Byte :=
  [(splitHalf e (encode i)).1, (splitHalf e (encode i)).2]

/-- The instruction the decoder reads from an instruction of `nbits` bits with value `w`, laid out in memory in
big-endian order; a row of the opcode table has 16 bits. -/
def decodeTableWord (nbits w : Nat) : Option Instr :=
  if nbits = 16 then
    let bytes := splitHalf .big (BitVec.ofNat 16 w)
    match decodeBytes .big [bytes.1, bytes.2] with
    | .ok (i, _) => some i
    | .error _ => none
  else none

end Sys2Proof
end

