-- ==== Sys2Proof/Machine/Defaults.lean ====
section
/-! DEFINITION. The defaults of the launch parameters (92_eei_decisions.md, parameter table) and the values of reset
(10_state.md R59). -/

namespace Sys2Proof.Machine

/-- Default `EXC_TABLE`: the table of 60_exceptions.md R452 (log 9). -/
def defaultExcTable : Config.ExcTable where
  unconditionalTrap := ⟨0x160#32, 0x100#32⟩
  generalIllegal := ⟨0x180#32, 0x100#32⟩
  slotIllegal := ⟨0x1A0#32, 0x100#32⟩
  instructionAddressError := ⟨0x0E0#32, 0x100#32⟩
  dataAddressErrorRead := ⟨0x0E0#32, 0x100#32⟩
  dataAddressErrorWrite := ⟨0x100#32, 0x100#32⟩
  dataTlbMissRead := ⟨0x040#32, 0x400#32⟩
  dataTlbMissWrite := ⟨0x060#32, 0x400#32⟩
  dataTlbProtectionRead := ⟨0x0A0#32, 0x100#32⟩
  dataTlbProtectionWrite := ⟨0x0C0#32, 0x100#32⟩
  initialPageWrite := ⟨0x080#32, 0x100#32⟩
  dataTlbMultipleHit := ⟨0x140#32, 0xA0000000#32⟩
  instructionTlbMiss := ⟨0x040#32, 0x400#32⟩
  instructionTlbProtection := ⟨0x0A0#32, 0x100#32⟩
  instructionTlbMultipleHit := ⟨0x140#32, 0xA0000000#32⟩
  interruptOffset := 0x600#32
  nonMaskableInterrupt := ⟨0x1C0#32, 0x600#32⟩
  powerOnReset := ⟨0x000#32, 0xA0000000#32⟩
  manualReset := ⟨0x020#32, 0xA0000000#32⟩

/-- Default `MEMMAP`: one ram region, over the area P0/U0, H'00000000 to H'7FFFFFFF (R82), and so none at the reset vector
(70_reset_and_hazards.md R500). DESIGN CHOICE, unsafe: which addresses hold memory is the product's (log 3). -/
def defaultMemMap : List Config.Region := [⟨0x00000000, 0x80000000, .ram⟩]

/-- The launch parameters at their defaults (92_eei_decisions.md). -/
def defaultParams : Config.Params where
  endian := .big
  memMap := defaultMemMap
  excTable := defaultExcTable
  is32 := []
  maclSatHigh := .preserve
  slotIllegalExtra := []
  ldrePcBias := .four
  ends := []
  ldtlb := .refuse

/-- `RESET_PC`, the reset vector (R59, R500). -/
def resetPc : Word := 0xA0000000#32

/-- SR after reset: MD = RB = BL = 1, IMASK = 15, the rest 0 (R59). The bits M, Q, S, T, which R59 leaves unspecified,
are 0. DESIGN CHOICE, unsafe (log 5). -/
def resetSr : Word := 0x700000F0#32

/-- What a register holds after reset where R59 gives no value. DESIGN CHOICE, unsafe (log 5). -/
def resetUnspecified : Word := 0#32

end Sys2Proof.Machine
end

