-- ==== Sys2Proof/Machine/State.lean ====
section
/-! DEFINITION. The state of the machine as plain data, the reasons a step can stop, and the state after reset.
Every piece of state that 10_state.md names is a field; INVENTORY.md lists each with its rule. -/

namespace Sys2Proof.Machine

/-- The exceptions the model raises (60_exceptions.md R453 to R457). The run goes on at the handler. -/
inductive Exc where
  /-- Unconditional trap, TRAPA (R453). -/
  | unconditionalTrap
  /-- General illegal instruction exception (R454). -/
  | generalIllegal
  /-- Slot illegal instruction exception (R455). -/
  | slotIllegal
  /-- Instruction address error (R457). -/
  | instructionAddressError
  /-- Data address error, on a read (R456). -/
  | dataAddressErrorRead
  /-- Data address error, on a write (R456). -/
  | dataAddressErrorWrite
  deriving DecidableEq, Repr

/-- Faults: the machine stops because the hardware does something the spec does not describe (60_exceptions.md
R478 (2)). Each is safe: nothing is claimed of what the hardware does then. -/
inductive Fault where
  /-- A fetch or access to an address in no region of `MEMMAP` (R82). Raised by fetch and by every memory access. Safe. -/
  | unmapped (a : Word)
  /-- A store to a rom region, or a byte operation checked as one (R82, R180 (e), R350 (e)). Safe. -/
  | romWrite (a : Word)
  /-- A store to TRA, EXPEVT or INTEVT, which are mapped read-only (R84). Raised by longword stores. Safe (log 19). -/
  | readOnlyRegister (a : Word)
  /-- A fetch from a block stored to since its last ICBI (R89). Raised by fetch. Safe (log 16). -/
  | staleFetch (a : Word)
  /-- A read or fetch of a byte nothing has written (R60, R71). Safe (log 4). -/
  | unwrittenMemory (a : Word)
  /-- An exception, TRAPA's included, with SR.BL = 1 (R461). Raised by every raise. Safe (log 20). -/
  | exceptionWithBlSet (e : Exc)
  /-- An exception of the instruction in RTE's delay slot (R464). Raised by every raise. Safe (log 21). -/
  | exceptionInRteSlot (e : Exc)
  deriving DecidableEq, Repr

/-- Refusals: the hardware has a definite behaviour that lies outside the spec (60_exceptions.md R478 (3)). Each is
safe: nothing is claimed of such an execution. -/
inductive Refusal where
  /-- The instruction has no meaning in the model yet. Raised by exec alone. Safe. -/
  | notModelled (mnemonic : String)
  /-- A word H'F000 to H'FFFF, the DSP unit's instruction space (R122). Raised by step. Safe (log 23). -/
  | dspInstructionSpace (w : Half)
  /-- A step that begins with SR.RC not 0: the repeat loop's mechanism is not in the source (R440). Raised by step.
  Safe (log 22). -/
  | repeatLoopArmed
  /-- A repeat count of 0 given to SETRC or LDRC (R418, R440). Safe (log 22). -/
  | repeatCountZero
  /-- LDC.L @Rm+,SR, m < 8, switching the bank of its own pointer (R396). Safe (log 24). -/
  | bankSwitchOfPointer
  /-- An access to a device region that the host does not answer, or to a control register other than as a longword
  (R475, R84). Safe (logs 19, 32). -/
  | deviceAccess (a : Word)
  /-- LDTLB in privileged mode, where the launch has no TLB (43_system_control.md R254). Raised by LDTLB. Safe (log 17). -/
  | ldtlbWithoutTlb
  /-- A store to MMUCR that enables the MMU, which stays disabled (R503 (7), R85). Safe (log 18). -/
  | mmuEnable
  /-- An interrupt request during SLEEP with BL = 1 (R463). Raised by step. Safe (log 25). -/
  | interruptDuringSleepWithBl
  deriving DecidableEq, Repr

/-- A delayed branch that has executed and whose slot instruction has not (10_state.md R58): the branch's own
address, which an exception in the slot saves (R464), where the branch goes, and whether it is RTE (R256). -/
structure Slot where
  branch : Word
  target : Word
  rte : Bool
  deriving DecidableEq, Repr

/-- An entry of the TLB, with the fields LDTLB loads (10_state.md R48; log 17). -/
structure TlbEntry where
  asid : BitVec 8
  vpn : BitVec 22
  ppn : BitVec 19
  sz : BitVec 2
  sh : BitVec 1
  pr : BitVec 2
  wt : BitVec 1
  c : BitVec 1
  d : BitVec 1
  v : BitVec 1
  deriving DecidableEq, Repr

/-- An interrupt request of the oracle `IRQ`: its level, 1 to 16, and its code (60_exceptions.md R463; log 10). Level 16
is the non-maskable interrupt, whose code is the one of `EXC_TABLE` (R452). -/
structure IrqRequest where
  level : Nat
  code : Word
  deriving DecidableEq, Repr

/-- An answer of the host to an access to a device region: the value a read of `size` bytes at `address` gives, or that a
write of `size` bytes there is taken (60_exceptions.md R475; log 32). -/
inductive HostAnswer where
  | read (address : Word) (size : Nat) (value : Word)
  | written (address : Word) (size : Nat)
  deriving DecidableEq, Repr

/-- Memory: the bytes that hold a value, by strictly rising address; a byte not listed holds none (10_state.md R60). -/
abbrev Memory := List Host.Cell

/-- The state of the machine (10_state.md). -/
structure State where
  /-- R0_BANK0 to R7_BANK0 (R21). -/
  bank0 : Vector Word 8
  /-- R0_BANK1 to R7_BANK1 (R21). -/
  bank1 : Vector Word 8
  /-- R8 to R15 (R21). -/
  high : Vector Word 8
  /-- The program counter (R23). -/
  pc : Word
  /-- The delayed branch whose slot comes next (R58). -/
  pending : Option Slot
  /-- The status register (R25). -/
  sr : Word
  /-- Global base register (R38). -/
  gbr : Word
  /-- Vector base register (R39). -/
  vbr : Word
  /-- Saved status register (R40). -/
  ssr : Word
  /-- Saved program counter (R41). -/
  spc : Word
  /-- Saved general register 15 (R42). -/
  sgr : Word
  /-- Debug base register (R43). -/
  dbr : Word
  /-- Upper half of the MAC register (R44). -/
  mach : Word
  /-- Lower half of the MAC register (R44). -/
  macl : Word
  /-- Procedure register (R45). -/
  pr : Word
  /-- TRAPA's immediate (R46). -/
  tra : Word
  /-- Exception event register (R47). -/
  expevt : Word
  /-- Interrupt event register (R47). -/
  intevt : Word
  /-- Page table entry high register (R48). -/
  pteh : Word
  /-- Page table entry low register (R48). -/
  ptel : Word
  /-- MMU control register, whose field URC names a TLB entry (R48; log 18). -/
  mmucr : Word
  /-- The TLB entries that LDTLB has loaded, by strictly rising number (R48; log 17). -/
  tlb : List (Nat × TlbEntry)
  /-- Modulo register (R49). -/
  mod : Word
  /-- Repeat start register (R50). -/
  rs : Word
  /-- Repeat end register (R50). -/
  re : Word
  /-- DSP status register (R51). -/
  dsr : Word
  /-- DSP data register A0 (R52). -/
  a0 : Word
  /-- The guard bits of A0 (R52). -/
  a0g : BitVec 8
  /-- DSP data registers (R53). -/
  x0 : Word
  x1 : Word
  y0 : Word
  y1 : Word
  /-- The flag that links MOVLI.L to MOVCO.L (R55). -/
  ldst : Bool
  /-- Power-down state (R57). -/
  asleep : Bool
  /-- Memory (20_memory.md R70). -/
  mem : Memory
  /-- `dirty_code`: the addresses of the 32-byte blocks stored to since their last ICBI, rising (20_memory.md R89). -/
  dirtyCode : List Nat
  /-- The launch parameters, which no step changes (00_scope.md R5; log 2). -/
  params : Config.Params
  /-- The coming answers of the oracle `IRQ`, one for each instruction boundary; after the last, "none" for ever
  (60_exceptions.md R463; log 10). -/
  irq : List (Option IrqRequest)
  /-- The coming answers of the host to accesses to device regions, in the order of the accesses; after the last, none
  (60_exceptions.md R475; log 32). -/
  host : List HostAnswer
  /-- The MODEL's own: how many free values have been drawn (log 11). -/
  freeCount : Nat
  deriving DecidableEq, Repr

/-- The machine right after reset (10_state.md R59, 70_reset_and_hazards.md R500), launched with the default parameters.
A register R59 gives no value holds `resetUnspecified` (DESIGN CHOICE, unsafe; log 5). -/
def State.reset : State where
  bank0 := Vector.replicate 8 resetUnspecified
  bank1 := Vector.replicate 8 resetUnspecified
  high := Vector.replicate 8 resetUnspecified
  pc := resetPc
  pending := none
  sr := resetSr
  gbr := resetUnspecified
  vbr := 0#32
  ssr := resetUnspecified
  spc := resetUnspecified
  sgr := resetUnspecified
  dbr := resetUnspecified
  mach := resetUnspecified
  macl := resetUnspecified
  pr := resetUnspecified
  tra := resetUnspecified
  expevt := defaultExcTable.powerOnReset.code
  intevt := resetUnspecified
  pteh := resetUnspecified
  ptel := resetUnspecified
  mmucr := resetUnspecified
  tlb := []
  mod := resetUnspecified
  rs := resetUnspecified
  re := resetUnspecified
  dsr := resetUnspecified
  a0 := resetUnspecified
  a0g := resetUnspecified.extractLsb' 0 8
  x0 := resetUnspecified
  x1 := resetUnspecified
  y0 := resetUnspecified
  y1 := resetUnspecified
  ldst := false
  asleep := false
  mem := []
  dirtyCode := []
  params := defaultParams
  irq := []
  host := []
  freeCount := 0

end Sys2Proof.Machine
end

