-- ==== Sys2Proof/Machine/Flags.lean ====
section
/-! DEFINITION. The status register: its fields (10_state.md R25 to R37), the masks of its whole-register writes, and
every computation of a flag that an instruction makes. The positions are those of the table of R25 (log 8). -/

namespace Sys2Proof.Machine

/-! ## Reading SR -/

/-- T, SR bit 0 (R26). -/
def State.tBit (s : State) : Bool := s.sr.getLsbD 0

/-- S, SR bit 1 (R27). -/
def State.sBit (s : State) : Bool := s.sr.getLsbD 1

/-- Q, SR bit 8 (R28). -/
def State.qBit (s : State) : Bool := s.sr.getLsbD 8

/-- M, SR bit 9 (R28). -/
def State.mBit (s : State) : Bool := s.sr.getLsbD 9

/-- DSP, SR bit 12 (R33). -/
def State.dsp (s : State) : Bool := s.sr.getLsbD 12

/-- BL, SR bit 28 (R32). -/
def State.bl (s : State) : Bool := s.sr.getLsbD 28

/-- RB, SR bit 29 (R31). -/
def State.rb (s : State) : Bool := s.sr.getLsbD 29

/-- MD, SR bit 30 (R30). -/
def State.md (s : State) : Bool := s.sr.getLsbD 30

/-- IMASK, SR bits 7 to 4 (R29). -/
def State.imask (s : State) : BitVec 4 := s.sr.extractLsb' 4 4

/-- RC, SR bits 27 to 16 (R35). -/
def State.rc (s : State) : BitVec 12 := s.sr.extractLsb' 16 12

/-! ## Writing SR -/

/-- A longword with bit `i` set to `b`. -/
def withBit (w : Word) (i : Nat) (b : Bool) : Word :=
  if b then w ||| BitVec.twoPow 32 i else w &&& ~~~(BitVec.twoPow 32 i)

/-- SR with T written (R26). -/
def State.setT (s : State) (b : Bool) : State := { s with sr := withBit s.sr 0 b }

/-- SR with S written (R27). -/
def State.setS (s : State) (b : Bool) : State := { s with sr := withBit s.sr 1 b }

/-- SR with Q written (R28). -/
def State.setQ (s : State) (b : Bool) : State := { s with sr := withBit s.sr 8 b }

/-- SR with M written (R28). -/
def State.setM (s : State) (b : Bool) : State := { s with sr := withBit s.sr 9 b }

/-- SR with DMX and DMY, bits 10 and 11, written (R34). -/
def State.setDmxDmy (s : State) (dmx dmy : Bool) : State :=
  { s with sr := withBit (withBit s.sr 10 dmx) 11 dmy }

/-- SR with RC, bits 27 to 16, and RF1 and RF0, bits 3 and 2, written (R35, R36, R418). -/
def State.setRepeat (s : State) (count : BitVec 12) (rf1 rf0 : Bool) : State :=
  { s with sr :=
      withBit (withBit ((s.sr &&& 0xF000FFFF#32) ||| (count.setWidth 32 <<< 16)) 3 rf1) 2 rf0 }

/-- The bits of SR that are implemented: bits 31 and 15 to 13 read 0 and ignore writes (R37). -/
def srMask : Word := 0x7FFF1FFF#32

/-- What SR becomes when a privileged program, or RTE, writes `v` to it (R37, R392, R256). -/
def srPrivilegedWrite (v : Word) : Word := v &&& srMask

/-- What SR becomes when a user DSP program writes `v` to it: bits 30 to 28, 9 to 4, 1 and 0 are kept (R37, R392). -/
def srUserDspWrite (sr v : Word) : Word := (sr &&& 0x700003F3#32) ||| (v &&& 0x0FFF1C0C#32)

/-- What the LDC forms make of SR from an operand, by the mode (R392). -/
def State.srLoad (s : State) (v : Word) : Word :=
  if s.md then srPrivilegedWrite v else srUserDspWrite s.sr v

/-- SR as exception entry leaves it: MD, RB and BL set, the rest kept (60_exceptions.md R451). -/
def srOnEntry (sr : Word) : Word := sr ||| 0x70000000#32

/-! ## Flag computations (40_arithmetic.md, 41_logical.md) -/

/-- `a + b + c` exactly, as its low 32 bits and its carry out of bit 31 (R143). -/
def addWithCarry (a b : Word) (c : Bool) : Word × Bool :=
  let sum := a.toNat + b.toNat + c.toNat
  (BitVec.ofNat 32 sum, decide (2 ^ 32 ≤ sum))

/-- `a - b - c` exactly, as its low 32 bits and its borrow (R171, R173). -/
def subWithBorrow (a b : Word) (c : Bool) : Word × Bool :=
  let diff : Int := (a.toNat : Int) - b.toNat - c.toNat
  (BitVec.ofInt 32 diff, decide (diff < 0))

/-- Signed overflow of `a + b` (R144). -/
def addOverflow (a b : Word) : Bool := a.msb == b.msb && (a + b).msb != a.msb

/-- Signed overflow of `a - b` (R174). -/
def subOverflow (a b : Word) : Bool := a.msb != b.msb && (a - b).msb != a.msb

/-- Signed `a >= b` (R146). -/
def signedGe (a b : Word) : Bool := decide (b.toInt ≤ a.toInt)

/-- Signed `a > b` (R147). -/
def signedGt (a b : Word) : Bool := decide (b.toInt < a.toInt)

/-- Unsigned `a > b` (R148). -/
def unsignedGt (a b : Word) : Bool := decide (b.toNat < a.toNat)

/-- Unsigned `a >= b` (R149). -/
def unsignedGe (a b : Word) : Bool := decide (b.toNat ≤ a.toNat)

/-- Some byte of `a` equals the byte of `b` at the same position (R152). -/
def someByteEqual (a b : Word) : Bool :=
  let x := a ^^^ b
  x.extractLsb' 24 8 == 0 || x.extractLsb' 16 8 == 0 || x.extractLsb' 8 8 == 0 || x.extractLsb' 0 8 == 0

/-- `a and b` is zero (R189). -/
def testZero (a b : Word) : Bool := (a &&& b) == 0

/-- One division step (R156): from the old Q, M and T, the partial remainder `rn` and the divisor `d`, the new
remainder, the new Q and the new T. -/
def divStep (q m t : Bool) (rn d : Word) : Word × Bool × Bool :=
  let t0 := (rn <<< 1) ||| (if t then 1#32 else 0#32)
  let r := if q == m then t0 - d else t0 + d
  let c := if q == m then decide (t0.toNat < r.toNat) else decide (r.toNat < t0.toNat)
  let newQ := (rn.msb ^^ c) ^^ m
  (r, newQ, newQ == m)

end Sys2Proof.Machine
end

