-- ==== Sys2Proof/Machine/Operands.lean ====
section
/-! DEFINITION. The operands of instructions: the general registers through the current bank, the registers of the other
bank, immediates, and every form of effective address. (10_state.md R20 to R22; 30_encoding.md R112 to R118.) -/

namespace Sys2Proof.Machine

/-! ## General registers -/

/-- BANK1 is current: MD = 1 and RB = 1; else BANK0 is (10_state.md R21). -/
def State.bankSel (s : State) : Bool := s.md && s.rb

/-- The place of register `i` in its array of eight: the low three bits of its number. -/
def regIndex (i : Reg) : Fin 8 := (i.extractLsb' 0 3).toFin

/-- `R[i]`: a register of the current bank for i < 8, else R8 to R15 (R20, R21). -/
def State.r (s : State) (i : Reg) : Word :=
  if i.msb then s.high[regIndex i]
  else if s.bankSel then s.bank1[regIndex i] else s.bank0[regIndex i]

/-- `R[i] <- v` (R20, R21). -/
def State.setR (s : State) (i : Reg) (v : Word) : State :=
  if i.msb then { s with high := s.high.set (regIndex i) v }
  else if s.bankSel then { s with bank1 := s.bank1.set (regIndex i) v }
  else { s with bank0 := s.bank0.set (regIndex i) v }

/-- `BANK[b]`: register b of the bank that is not current (R21). -/
def State.bankR (s : State) (b : BankReg) : Word :=
  if s.bankSel then s.bank0[b.toFin] else s.bank1[b.toFin]

/-- `BANK[b] <- v` (R21). -/
def State.setBankR (s : State) (b : BankReg) (v : Word) : State :=
  if s.bankSel then { s with bank0 := s.bank0.set b.toFin v }
  else { s with bank1 := s.bank1.set b.toFin v }

/-! ## Immediates and displacements (30_encoding.md R113 to R117) -/

/-- `sext_N(v)`: sign extension to a longword (00_scope.md R10). -/
def sext {n : Nat} (v : BitVec n) : Word := v.signExtend 32

/-- `zext_N(v)`: zero extension to a longword (00_scope.md R10). -/
def zext {n : Nat} (v : BitVec n) : Word := v.setWidth 32

/-- The low byte of a register (R300 (c)). -/
def lowByte (v : Word) : Byte := v.extractLsb' 0 8

/-- The low word of a register (R300 (c)). -/
def lowHalf (v : Word) : Half := v.extractLsb' 0 16

/-! ## Effective addresses (44_data_transfer.md; sums wrap modulo 2^32, 20_memory.md R77) -/

/-- `@(R0,Rn)` (R314 to R319). -/
def State.indexed (s : State) (n : Reg) : Word := s.r n + s.r 0

/-- `@(R0,GBR)` (41_logical.md R180 (d)). -/
def State.gbrIndexed (s : State) : Word := s.gbr + s.r 0

/-- `@(disp,GBR)`, the displacement scaled by the operand's size (R323 to R328). -/
def State.gbrDisp (s : State) (size : Word) (d : BitVec 8) : Word := s.gbr + size * zext d

/-- `@(disp,Rn)`, the displacement scaled by the operand's size (R329 to R334). -/
def State.regDisp (s : State) (n : Reg) (size : Word) (d : BitVec 4) : Word := s.r n + size * zext d

/-- `@(disp,PC)` of a word: the address of the instruction plus 4, not masked (R321). -/
def State.pcDispWord (s : State) (d : BitVec 8) : Word := s.pc + 4 + 2 * zext d

/-- `@(disp,PC)` of a longword, and of MOVA: the low two bits of the pc cleared (R322, R335). -/
def State.pcDispLong (s : State) (d : BitVec 8) : Word := (s.pc &&& 0xFFFFFFFC#32) + 4 + 4 * zext d

/-- The target of a branch by displacement: pc + 4 + 2 * signed(d) (30_encoding.md R114, R115). -/
def State.branchTarget {n : Nat} (s : State) (d : BitVec n) : Word := s.pc + 4 + 2 * sext d

/-- The target of BRAF and BSRF: pc + 4 + R[n] (42_branch.md R208, R214). -/
def State.braTarget (s : State) (n : Reg) : Word := s.pc + 4 + s.r n

/-- The address LDRE and LDRS make, with `LDRE_PC_BIAS` (47_dsp_control.md R402; log 27). -/
def State.repeatAddress (s : State) (d : BitVec 8) : Word :=
  s.pc + (match s.params.ldrePcBias with | .four => 4#32 | .zero => 0#32) + 2 * sext d

/-- The address of the 32-byte cache block that holds `a` (45_cache_sync.md R350 (b)). -/
def blockOf (a : Word) : Word := a &&& 0xFFFFFFE0#32

end Sys2Proof.Machine
end

