-- ==== Sys2Proof/Machine/Ops.lean ====
section
/-! DEFINITION. The shared operations: what an access or an instruction can end in, taking an exception and returning from
one, the mode checks, memory and its access checks, the control registers in the address space, cache blocks, the TLB,
fetching, and free values. (20_memory.md, 45_cache_sync.md, 60_exceptions.md.) -/

namespace Sys2Proof.Machine

/-! ## Ordered lists by number -/

/-- The entry at `k` of a list of numbered entries. -/
def assocGet {α : Type} : List (Nat × α) → Nat → Option α
  | [], _ => none
  | c :: cs, k => if c.1 = k then some c.2 else assocGet cs k

/-- Write the entry at `k`, keeping the numbers strictly rising. -/
def assocSet {α : Type} : List (Nat × α) → Nat → α → List (Nat × α)
  | [], k, v => [(k, v)]
  | c :: cs, k, v =>
    if k < c.1 then (k, v) :: c :: cs
    else if k = c.1 then (k, v) :: cs
    else c :: assocSet cs k v

/-- The canonical form of a list of numbered entries: the numbers strictly rise. -/
def assocSorted {α : Type} (l : List (Nat × α)) : Bool :=
  decide (l.Pairwise (fun c d => c.1 < d.1))

/-- Put a number into a set held as a strictly rising list. -/
def setInsert : List Nat → Nat → List Nat
  | [], k => [k]
  | c :: cs, k => if k < c then k :: c :: cs else if k = c then c :: cs else c :: setInsert cs k

/-- Take a number out of a set held as a strictly rising list. -/
def setErase (l : List Nat) (k : Nat) : List Nat := l.filter (fun c => c != k)

/-- Memory is in its canonical form: addresses strictly rising and of 32 bits. An unlisted address holds no value
(10_state.md R60), so no entry can equal what it reads as (log 4). -/
def Memory.wf (m : Memory) : Bool := assocSorted m && m.all (fun c => decide (c.1 < 2 ^ 32))

/-! ## How an access or an instruction ends early -/

/-- Why an access stops the instruction that makes it: an exception (60_exceptions.md R478 (1)), a fault of the model
(R478 (2)) or a refusal (R478 (3)). -/
inductive Stop where
  | exc (e : Exc)
  | fault (f : Fault)
  | refused (r : Refusal)
  deriving DecidableEq, Repr

/-- The result of an access, or the reason it stops. -/
abbrev Access (α : Type) := Except Stop α

/-- What a step answers. -/
abbrev Outcome := Host.Outcome State Fault Refusal

/-! ## Taking an exception and returning (60_exceptions.md R451, R453 to R467) -/

/-- The row of `EXC_TABLE` of an exception (R452). -/
def excEntry (t : Config.ExcTable) : Exc → Config.ExcEntry
  | .unconditionalTrap => t.unconditionalTrap
  | .generalIllegal => t.generalIllegal
  | .slotIllegal => t.slotIllegal
  | .instructionAddressError => t.instructionAddressError
  | .dataAddressErrorRead => t.dataAddressErrorRead
  | .dataAddressErrorWrite => t.dataAddressErrorWrite

/-- The part of the entry sequence common to exceptions and interrupts (R451): save SR, the restart address and R15;
set MD, RB and BL; clear LDST and `asleep`; go to the handler. -/
def State.enter (s : State) (restart offset : Word) : State :=
  { s with
    ssr := s.sr
    spc := restart
    sgr := s.r 15
    sr := srOnEntry s.sr
    ldst := false
    asleep := false
    pending := none
    pc := s.vbr + offset }

/-- The address an exception saves in SPC: the delayed branch for an exception in its slot (R464), the next instruction
for TRAPA, else the instruction itself (R466). -/
def State.restartAddress (s : State) (e : Exc) : Word :=
  match s.pending with
  | some p => p.branch
  | none =>
    match e with
    | .unconditionalTrap => s.pc + 2
    | _ => s.pc

/-- The entry of an exception: the sequence of R451 with its code in EXPEVT. -/
def State.enterException (s : State) (e : Exc) : State :=
  { s.enter (s.restartAddress e) (excEntry s.params.excTable e).offset with
    expevt := (excEntry s.params.excTable e).code }

/-- The row of `EXC_TABLE` of an interrupt request: the non-maskable interrupt's own, or the code of the request at the
offset of interrupts (R452, R463). -/
def intEntry (t : Config.ExcTable) (q : IrqRequest) : Config.ExcEntry :=
  if q.level < 16 then ⟨q.code, t.interruptOffset⟩ else t.nonMaskableInterrupt

/-- The entry of an accepted interrupt: the sequence of R451 with its code in INTEVT (R463). -/
def State.enterInterrupt (s : State) (q : IrqRequest) : State :=
  { s.enter s.pc (intEntry s.params.excTable q).offset with intevt := (intEntry s.params.excTable q).code }

/-- The instruction to execute is in the delay slot of an RTE (R464). -/
def State.inRteSlot (s : State) : Bool :=
  match s.pending with
  | some p => p.rte
  | none => false

/-- Raise an exception in a state in which the instruction has changed nothing (R465). In RTE's slot (R464; log 21) and
with BL = 1 (R461; log 20) it is a fault of the model. -/
def raise (e : Exc) (s : State) : Outcome :=
  if s.inRteSlot then .fault (.exceptionInRteSlot e)
  else if s.bl then .fault (.exceptionWithBlSet e)
  else .next (s.enterException e)

/-- General illegal instruction, or slot illegal instruction in a delay slot (R454, R455). -/
def raiseIllegal (s : State) : Outcome :=
  raise (if s.pending.isSome then .slotIllegal else .generalIllegal) s

/-! ## How an instruction ends (10_state.md R24, 42_branch.md R200) -/

/-- The end of an instruction that is no taken branch: the next instruction is at pc + 2, or, from a delay slot, at the
branch's target (R24, R200). -/
def State.advance (s : State) : State :=
  match s.pending with
  | none => { s with pc := s.pc + 2 }
  | some p => { s with pc := p.target, pending := none }

/-- The instruction ends with the state `t` and the advance of the pc. -/
def done (t : State) : Outcome := .next t.advance

/-- How an access that stops ends the instruction: an exception is taken from `s`, the state before the instruction, so
nothing the instruction did is kept (R465). -/
def stopWith (s : State) : Stop → Outcome
  | .exc e => raise e s
  | .fault f => .fault f
  | .refused r => .refused r

/-- The instruction ends as its accesses say: with a state and the advance of the pc, or stopped. -/
def complete (s : State) : Access State → Outcome
  | .ok t => done t
  | .error x => stopWith s x

/-- A taken branch without a delay slot (42_branch.md R205, R209). -/
def jumpTo (s : State) (target : Word) : Outcome := .next { s with pc := target }

/-- A delayed branch: the slot instruction at pc + 2 comes next, then `target` (42_branch.md R200; log 7). -/
def delayedBranch (s : State) (target : Word) : Outcome :=
  .next { s with pc := s.pc + 2, pending := some ⟨s.pc, target, false⟩ }

/-- Return from an exception or interrupt: SR from SSR under the mask, then a delayed branch to SPC; the slot is RTE's
(43_system_control.md R256). -/
def returnFromException (s : State) : Outcome :=
  .next { s with
    sr := srPrivilegedWrite s.ssr
    pc := s.pc + 2
    pending := some ⟨s.pc, s.spc, true⟩ }

/-! ## Mode checks, made before any operand is read (30_encoding.md R123, R124) -/

/-- A privileged instruction (R123 (a)). -/
def whenPrivileged (s : State) (k : Outcome) : Outcome := if s.md then k else raiseIllegal s

/-- An instruction that SR.DSP enables (R123 (b)). -/
def whenDsp (s : State) (k : Outcome) : Outcome := if s.dsp then k else raiseIllegal s

/-- An SR form: privileged unless SR.DSP = 1 (R123 (c)). -/
def whenPrivilegedOrDsp (s : State) (k : Outcome) : Outcome := if s.md || s.dsp then k else raiseIllegal s

/-- An instruction that may not occupy a delay slot (R124). -/
def whenNotInSlot (s : State) (k : Outcome) : Outcome :=
  if s.pending.isSome then raise .slotIllegal s else k

/-! ## The address map and the checks of an access (20_memory.md R71, R74, R82, R83) -/

/-- The kind of the region of `MEMMAP` that holds an address, if any does (R82). -/
def regionKind (regions : List Config.Region) (a : Word) : Option Config.RegionKind :=
  (regions.find? (fun r => decide (r.base ≤ a.toNat) && decide (a.toNat < r.base + r.size))).map (·.kind)

/-- The registers mapped in the address space (R84, 10_state.md R46 to R48). -/
inductive ControlReg where
  | pteh
  | ptel
  | mmucr
  | tra
  | expevt
  | intevt
  deriving DecidableEq, Repr

/-- The register mapped at an address (R84; log 19). -/
def controlReg (a : Word) : Option ControlReg :=
  if a = 0xFF000000#32 then some .pteh
  else if a = 0xFF000004#32 then some .ptel
  else if a = 0xFF000010#32 then some .mmucr
  else if a = 0xFF000020#32 then some .tra
  else if a = 0xFF000024#32 then some .expevt
  else if a = 0xFF000028#32 then some .intevt
  else none

/-- The address lies in a longword at which a register is mapped. -/
def isControl (a : Word) : Bool := (controlReg (a &&& 0xFFFFFFFC#32)).isSome

/-- The alignment check of an access of `size` bytes (R74, R75). -/
def checkAligned (a : Word) (size : Nat) (e : Exc) : Access Unit :=
  if a.toNat % size = 0 then .ok () else .error (.exc e)

/-- The privileged area is closed to user mode (R83). -/
def checkPrivilege (s : State) (a : Word) (e : Exc) : Access Unit :=
  if !s.md && a.msb then .error (.exc e) else .ok ()

/-- The byte at `a` is memory that can be read (R82). A register mapped there answers longwords only (log 19). -/
def checkRead (s : State) (a : Word) : Access Unit :=
  if isControl a then .error (.refused (.deviceAccess a)) else
  match regionKind s.params.memMap a with
  | none => .error (.fault (.unmapped a))
  | some .device => .error (.refused (.deviceAccess a))
  | some .rom => .ok ()
  | some .ram => .ok ()

/-- The byte at `a` is memory that can be written (R82). -/
def checkWrite (s : State) (a : Word) : Access Unit :=
  if isControl a then .error (.refused (.deviceAccess a)) else
  match regionKind s.params.memMap a with
  | none => .error (.fault (.unmapped a))
  | some .device => .error (.refused (.deviceAccess a))
  | some .rom => .error (.fault (.romWrite a))
  | some .ram => .ok ()

/-! ## Device regions (60_exceptions.md R475; log 32) -/

/-- An access at `a` is one to a device region, where no register is mapped (R82, R84). -/
def State.isDevice (s : State) (a : Word) : Bool :=
  !isControl a && regionKind s.params.memMap a == some .device

/-- A byte of an access that the host answers lies in a device region, or can be read as a byte of memory can: an address
in no region is the fault `unmapped` there too (R82, 45_cache_sync.md R355). -/
def checkHostRead (s : State) (a : Word) : Access Unit := if s.isDevice a then .ok () else checkRead s a

/-- A byte of a store that the host takes lies in a device region, or can be written as a byte of memory can (R82). -/
def checkHostWrite (s : State) (a : Word) : Access Unit := if s.isDevice a then .ok () else checkWrite s a

/-- A check made of each of the `size` bytes from `a` on, by rising address. -/
def checkEach (check : Word → Access Unit) (a : Word) : Nat → Access Unit
  | 0 => .ok ()
  | k + 1 => do
    checkEach check a k
    check (a + BitVec.ofNat 32 k)

/-- What the host answers to a read of `size` bytes at `a`; without an answer for it the access is refused. -/
def hostAnswer (s : State) (a : Word) (size : Nat) : Access Word :=
  match s.host with
  | .read b n v :: _ => if b = a ∧ n = size then .ok v else .error (.refused (.deviceAccess a))
  | _ => .error (.refused (.deviceAccess a))

/-- A read of `size` bytes at `a` in a device region: the check of each byte, then the host's answer (R475). -/
def hostRead (s : State) (a : Word) (size : Nat) : Access Word := do
  checkEach (checkHostRead s) a size
  hostAnswer s a size

/-- The host's answer to an access at `a` is used up, if `a` is in a device region. -/
def State.hostTaken (s : State) (a : Word) : State := if s.isDevice a then { s with host := s.host.tail } else s

/-- The byte memory holds at `a`; a byte nothing has written holds none (R71 (5), 10_state.md R60). -/
def heldByte (s : State) (a : Word) : Access Byte :=
  match assocGet s.mem a.toNat with
  | some b => .ok b
  | none => .error (.fault (.unwrittenMemory a))

/-! ## Reading (20_memory.md R71, R72, R76) -/

/-- `MemRead(a, 1)`. -/
def readByte (s : State) (a : Word) : Access Byte := do
  checkPrivilege s a .dataAddressErrorRead
  if s.isDevice a then do
    let v ← hostRead s a 1
    pure (v.setWidth 8)
  else do
    checkRead s a
    heldByte s a

/-- The word memory holds at `a`, by the byte order. -/
def halfAt (s : State) (a : Word) : Access Half := do
  checkEach (checkRead s) a 2
  let b0 ← heldByte s a
  let b1 ← heldByte s (a + 1)
  pure (joinHalf s.params.endian b0 b1)

/-- The word at `a`, from the host or from memory: what `MemRead(a, 2)` and a fetch read once their checks of alignment
and mode have passed (R73). -/
def wordAt (s : State) (a : Word) : Access Half :=
  if s.isDevice a then do
    let v ← hostRead s a 2
    pure (v.setWidth 16)
  else halfAt s a

/-- `MemRead(a, 2)`. -/
def readHalf (s : State) (a : Word) : Access Half := do
  checkAligned a 2 .dataAddressErrorRead
  checkPrivilege s a .dataAddressErrorRead
  wordAt s a

/-- The longword memory holds at `a`, whatever `a`'s alignment, by the byte order. -/
def longAt (s : State) (a : Word) : Access Word := do
  checkEach (checkRead s) a 4
  let b0 ← heldByte s a
  let b1 ← heldByte s (a + 1)
  let b2 ← heldByte s (a + 2)
  let b3 ← heldByte s (a + 3)
  pure (joinLong s.params.endian b0 b1 b2 b3)

/-- What a mapped register reads as (R84). -/
def State.controlRead (s : State) : ControlReg → Word
  | .pteh => s.pteh
  | .ptel => s.ptel
  | .mmucr => s.mmucr
  | .tra => s.tra
  | .expevt => s.expevt
  | .intevt => s.intevt

/-- `MemRead(a, 4)`. -/
def readLong (s : State) (a : Word) : Access Word := do
  checkAligned a 4 .dataAddressErrorRead
  checkPrivilege s a .dataAddressErrorRead
  match controlReg a with
  | some c => pure (s.controlRead c)
  | none => if s.isDevice a then hostRead s a 4 else longAt s a

/-- `MemReadUnaligned(a)`: the longword at any address, each of its four bytes checked; an aligned address behaves as
`MemRead(a, 4)` (R76, 45_cache_sync.md R355). -/
def readUnaligned (s : State) (a : Word) : Access Word :=
  if a.toNat % 4 = 0 then readLong s a else do
    checkPrivilege s a .dataAddressErrorRead
    checkPrivilege s (a + 1) .dataAddressErrorRead
    checkPrivilege s (a + 2) .dataAddressErrorRead
    checkPrivilege s (a + 3) .dataAddressErrorRead
    if s.isDevice a then hostRead s a 4 else longAt s a

/-! ## Writing (20_memory.md R71, R72, R89) -/

/-- Bytes put into memory from `a` on, by rising address. -/
def putBytes (m : Memory) (a : Word) : List Byte → Memory
  | [] => m
  | b :: bs => putBytes (assocSet m a.toNat b) (a + 1) bs

/-- A store puts the 32-byte block of its address into `dirty_code` (R89; log 16). -/
def State.markDirty (s : State) (a : Word) : State :=
  { s with dirtyCode := setInsert s.dirtyCode (blockOf a).toNat }

/-- Store bytes at `a`, all in one block. -/
def State.putAt (s : State) (a : Word) (bs : List Byte) : State :=
  { s with mem := putBytes s.mem a bs }.markDirty a

/-- The two bytes of a word by rising address, as a list. -/
def halfBytes (s : State) (v : Half) : List Byte :=
  [(splitHalf s.params.endian v).1, (splitHalf s.params.endian v).2]

/-- The four bytes of a longword by rising address, as a list. -/
def longBytes (s : State) (v : Word) : List Byte :=
  [(splitLong s.params.endian v).1, (splitLong s.params.endian v).2.1,
    (splitLong s.params.endian v).2.2.1, (splitLong s.params.endian v).2.2.2]

/-- The host takes a store of `size` bytes at `a`, and memory does not change (R475). The block of `a` joins `dirty_code` as
for every store (R89). -/
def hostTakes (s : State) (a : Word) (size : Nat) : Access State :=
  match s.host with
  | .written b n :: _ =>
    if b = a ∧ n = size then .ok ((s.hostTaken a).markDirty a) else .error (.refused (.deviceAccess a))
  | _ => .error (.refused (.deviceAccess a))

/-- A store of `size` bytes at `a` in a device region: the check of each byte, then the host takes it (R475). -/
def hostWrite (s : State) (a : Word) (size : Nat) : Access State := do
  checkEach (checkHostWrite s) a size
  hostTakes s a size

/-- `MemWrite(a, 1, v)`. -/
def writeByte (s : State) (a : Word) (v : Byte) : Access State := do
  checkPrivilege s a .dataAddressErrorWrite
  if s.isDevice a then hostWrite s a 1 else do
    checkWrite s a
    pure (s.putAt a [v])

/-- `MemWrite(a, 2, v)`. -/
def writeHalf (s : State) (a : Word) (v : Half) : Access State := do
  checkAligned a 2 .dataAddressErrorWrite
  checkPrivilege s a .dataAddressErrorWrite
  if s.isDevice a then hostWrite s a 2 else do
    checkEach (checkWrite s) a 2
    pure (s.putAt a (halfBytes s v))

/-- A longword store to a mapped register: PTEH, PTEL and MMUCR take it, TRA, EXPEVT and INTEVT are read-only (R84;
log 19). A store that would enable the MMU is refused (R85; log 18). -/
def State.controlWrite (s : State) (a v : Word) : ControlReg → Access State
  | .pteh => .ok { s with pteh := v }
  | .ptel => .ok { s with ptel := v }
  | .mmucr => if v.getLsbD 0 then .error (.refused .mmuEnable) else .ok { s with mmucr := v }
  | .tra => .error (.fault (.readOnlyRegister a))
  | .expevt => .error (.fault (.readOnlyRegister a))
  | .intevt => .error (.fault (.readOnlyRegister a))

/-- `MemWrite(a, 4, v)`. -/
def writeLong (s : State) (a v : Word) : Access State := do
  checkAligned a 4 .dataAddressErrorWrite
  checkPrivilege s a .dataAddressErrorWrite
  match controlReg a with
  | some c => do
    let t ← s.controlWrite a v c
    pure (t.markDirty a)
  | none => if s.isDevice a then hostWrite s a 4 else do
    checkEach (checkWrite s) a 4
    pure (s.putAt a (longBytes s v))

/-- The byte at `a`, checked as a byte load and a byte store (41_logical.md R180 (e)). -/
def readByteForUpdate (s : State) (a : Word) : Access Byte := do
  checkPrivilege s a .dataAddressErrorRead
  if s.isDevice a then do
    let v ← hostRead s a 1
    pure (v.setWidth 8)
  else do
    checkRead s a
    checkWrite s a
    heldByte s a

/-! ## Cache blocks (45_cache_sync.md R350) -/

/-- The check of a block operation, as a one-byte access without alignment; nothing is accessed, so a device region
refuses nothing (R350 (e)). `store` says whether it is checked as a store, which rom refuses. -/
def checkBlock (s : State) (a : Word) (store : Bool) (e : Exc) : Access Unit := do
  checkPrivilege s a e
  match regionKind s.params.memMap a with
  | none => .error (.fault (.unmapped a))
  | some .rom => if store then .error (.fault (.romWrite a)) else .ok ()
  | some .ram => .ok ()
  | some .device => .ok ()

/-- Memory in which the first `k` bytes of the block at `b` are free values, but for the offsets `keep` names, whatever
region they lie in (R352, R357; logs 14, 15). -/
def loseBytes (keep : Nat → Bool) (count : Nat) (b : Word) : Nat → Memory → Memory
  | 0, m => m
  | k + 1, m =>
    let rest := loseBytes keep count b k m
    if keep k then rest else assocSet rest (b + BitVec.ofNat 32 k).toNat (Config.freeByte (count + k))

/-- A free longword, of the four free bytes from the `n`th on. -/
def freeLong (n : Nat) : Word :=
  Config.freeByte n ++ Config.freeByte (n + 1) ++ Config.freeByte (n + 2) ++ Config.freeByte (n + 3)

/-- What a register that holds `v`, mapped at `c`, holds after the block at `b` loses its contents, but for the offsets
`keep` names: a free value under `mask` if its longword is lost (R352, R357; logs 14, 15). -/
def loseRegister (keep : Nat → Bool) (count : Nat) (b c mask v : Word) : Word :=
  if blockOf c = b ∧ keep (c - b).toNat = false then freeLong (count + (c - b).toNat) &&& mask else v

/-- The block of `a` loses its contents, but for the offsets `keep` names: each such byte becomes a free value, and so does
a register mapped there that a store can write. The MMU stays disabled (20_memory.md R85; log 18). -/
def State.loseBlock (s : State) (a : Word) (keep : Nat → Bool) : State :=
  { s with
    mem := loseBytes keep s.freeCount (blockOf a) 32 s.mem
    pteh := loseRegister keep s.freeCount (blockOf a) 0xFF000000#32 0xFFFFFFFF#32 s.pteh
    ptel := loseRegister keep s.freeCount (blockOf a) 0xFF000004#32 0xFFFFFFFF#32 s.ptel
    mmucr := loseRegister keep s.freeCount (blockOf a) 0xFF000010#32 0xFFFFFFFE#32 s.mmucr
    freeCount := s.freeCount + 32 }

/-- The offset in its block of a byte of the longword at `a` (R352). -/
def inLongOf (a : Word) (k : Nat) : Bool := decide (a.toNat % 32 ≤ k) && decide (k < a.toNat % 32 + 4)

/-! ## The TLB (10_state.md R48, 43_system_control.md R254; log 17) -/

/-- The entry PTEH and PTEL describe, field by field (R48). -/
def tlbEntryOf (pteh ptel : Word) : TlbEntry where
  asid := pteh.extractLsb' 0 8
  vpn := pteh.extractLsb' 10 22
  ppn := ptel.extractLsb' 10 19
  sz := ptel.extractLsb' 7 1 ++ ptel.extractLsb' 4 1
  sh := ptel.extractLsb' 1 1
  pr := ptel.extractLsb' 5 2
  wt := ptel.extractLsb' 0 1
  c := ptel.extractLsb' 3 1
  d := ptel.extractLsb' 2 1
  v := ptel.extractLsb' 8 1

/-- `MMUCR.URC`, bits 15 to 10. PRESUMED, unsafe (log 18). -/
def State.urc (s : State) : BitVec 6 := s.mmucr.extractLsb' 10 6

/-- PTEH and PTEL loaded into the TLB entry MMUCR.URC names (R48). -/
def State.loadTlb (s : State) : State :=
  { s with tlb := assocSet s.tlb s.urc.toNat (tlbEntryOf s.pteh s.ptel) }

/-- What LDTLB does with the launch's parameter: refused, or the load (R254; log 17). -/
def State.useLdtlb (s : State) : Access State :=
  match s.params.ldtlb with
  | .refuse => .error (.refused .ldtlbWithoutTlb)
  | .load => .ok s.loadTlb

/-! ## Repeat control (47_dsp_control.md R418; logs 11, 22) -/

/-- `RC <- c`, with RF1 and RF0 drawn; a count of 0 is refused (R418). -/
def setRepeatCount (s : State) (c : BitVec 12) : Access State :=
  if c = 0 then .error (.refused .repeatCountZero)
  else .ok { s.setRepeat c ((Config.freeBit s.freeCount).getLsbD 0) ((Config.freeBit (s.freeCount + 1)).getLsbD 0) with
    freeCount := s.freeCount + 2 }

/-- `RE[0] <- 1` (R400). -/
def State.markExtendedRepeat (s : State) : State := { s with re := s.re ||| 1#32 }

/-! ## Fetching (20_memory.md R73, R75, R83, R89) -/

/-- No store has been made to the block of pc since its last ICBI (R89). -/
def checkFresh (s : State) : Access Unit :=
  if s.dirtyCode.contains (blockOf s.pc).toNat then .error (.fault (.staleFetch s.pc)) else .ok ()

/-- The instruction word at pc. The fetch of the word in RTE's slot is made under the mode before RTE, which was
privileged (R73, 43_system_control.md R256). -/
def fetch (s : State) : Access Half := do
  checkAligned s.pc 2 .instructionAddressError
  if s.inRteSlot then pure () else checkPrivilege s s.pc .instructionAddressError
  let w ← wordAt s s.pc
  checkFresh s
  pure w

/-- A word is in the set a list of patterns describes (log 26). -/
def matchesAny (ps : List Config.WordPattern) (w : Half) : Bool := ps.any (fun p => w &&& p.mask == p.value)

/-- The word at `a` as a fetch there would read it, from memory or from the host, whose answer is not used up; `none` where
no fetch could. -/
def peekHalf (s : State) (a : Word) : Option Half :=
  match wordAt s a with
  | .ok w => some w
  | .error _ => none

/-- `is_32bit(a)`: the word at `a`, in memory or in a device region, is in `IS32` (42_branch.md R216; log 26). -/
def is32 (s : State) (a : Word) : Bool :=
  match peekHalf s a with
  | some w => matchesAny s.params.is32 w
  | none => false

/-- The return address of BSR, BSRF and JSR: pc + 4, or pc + 6 when the slot holds a 32-bit instruction (R213). -/
def State.returnAddress (s : State) : Word := s.pc + 4 + (if is32 s (s.pc + 2) then 2#32 else 0#32)

/-- The instruction in the delay slot belongs to `SLOT_ILLEGAL_EXTRA` (30_encoding.md R124; log 26). -/
def slotExtra (s : State) (w : Half) : Bool := s.pending.isSome && matchesAny s.params.slotIllegalExtra w

/-- An instruction word put where the next fetch reads, by the byte order. -/
def State.placeWord (s : State) (w : Half) : State := { s with mem := putBytes s.mem s.pc (halfBytes s w) }

/-- A map with the byte at `a` in a ram region of its own, where it is in no region. -/
def mapByte (regions : List Config.Region) (a : Word) : List Config.Region :=
  if (regionKind regions a).isSome then regions else regions ++ [⟨a.toNat, 1, .ram⟩]

/-- Code mapped where the next fetch reads, as "a launch that starts from reset must map code there"
(70_reset_and_hazards.md R500; log 30). -/
def State.mapCode (s : State) : State :=
  { s with params := { s.params with memMap := mapByte (mapByte s.params.memMap s.pc) (s.pc + 1) } }

/-! ## Interrupt sampling (60_exceptions.md R463; log 10) -/

/-- The oracle's answer at this boundary. -/
def State.irqNow (s : State) : Option IrqRequest := s.irq.head?.join

/-- The oracle's answer at this boundary is used up. -/
def State.irqTaken (s : State) : State := { s with irq := s.irq.tail }

/-- The run has ended: at an instruction boundary, at an address of `END`, or asleep with no interrupt to come (R476;
log 25). -/
def State.runEnded (s : State) : Bool :=
  s.pending.isNone && (s.params.ends.contains s.pc || (s.asleep && s.irq.all (fun q => q.isNone)))

/-- A request is acceptable: BL = 0 and its level is above IMASK (R463). -/
def State.accepts (s : State) (q : IrqRequest) : Bool := !s.bl && decide (s.imask.toNat < q.level)

/-! ## Loads and stores as instructions make them -/

/-- Load a byte, then go on with it. -/
def loadByte (s : State) (a : Word) (k : Byte → State) : Outcome :=
  complete s ((readByte s a).map (fun v => (k v).hostTaken a))

/-- Load a word, then go on with it. -/
def loadHalf (s : State) (a : Word) (k : Half → State) : Outcome :=
  complete s ((readHalf s a).map (fun v => (k v).hostTaken a))

/-- Load a longword, then go on with it. -/
def loadLong (s : State) (a : Word) (k : Word → State) : Outcome :=
  complete s ((readLong s a).map (fun v => (k v).hostTaken a))

/-- Load a longword from any address, then go on with it. -/
def loadUnaligned (s : State) (a : Word) (k : Word → State) : Outcome :=
  complete s ((readUnaligned s a).map (fun v => (k v).hostTaken a))

/-- Store a byte, then make the instruction's register updates. -/
def storeByte (s : State) (a : Word) (v : Byte) (k : State → State) : Outcome := complete s ((writeByte s a v).map k)

/-- Store a word, then make the instruction's register updates. -/
def storeHalf (s : State) (a : Word) (v : Half) (k : State → State) : Outcome := complete s ((writeHalf s a v).map k)

/-- Store a longword, then make the instruction's register updates. -/
def storeLong (s : State) (a v : Word) (k : State → State) : Outcome := complete s ((writeLong s a v).map k)

/-- `@Rm+` load of a special register: read at Rm, write the register, add 4 to Rm (43_system_control.md R230 (c)). -/
def popLong (s : State) (m : Reg) (k : Word → State) : Outcome :=
  loadLong s (s.r m) (fun v => (k v).setR m (s.r m + 4))

/-- `@-Rn` store of a special register: write at Rn - 4, then subtract 4 from Rn (43_system_control.md R230 (d)). -/
def pushLong (s : State) (n : Reg) (v : Word) : Outcome :=
  storeLong s (s.r n - 4) v (fun t => t.setR n (s.r n - 4))

/-- A load's `@Rm+` update: Rn gets the value; Rm is incremented unless n = m (44_data_transfer.md R311). -/
def State.loadInc (s : State) (m n : Reg) (size v : Word) : State :=
  if n = m then s.setR n v else (s.setR n v).setR m (s.r m + size)

/-- `byte <- f byte` at `a`, one read and one write of it (41_logical.md R180 (d), (e)), with T written by `t`. -/
def updateByte (s : State) (a : Word) (f : Byte → Byte) (t : Byte → State → State) : Outcome :=
  complete s (do
    let b ← readByteForUpdate s a
    let u ← writeByte (s.hostTaken a) a (f b)
    pure (t b u))

end Sys2Proof.Machine
end

