-- ==== Sys2Proof/Machine/Arithmetic.lean ====
section
/-! DEFINITION. The meanings of the arithmetic instructions (40_arithmetic.md). Each follows the rule its docstring names;
R140 holds of all. -/

namespace Sys2Proof.Machine

/-! ## Add -/

/-- `ADD Rm,Rn` (R141). -/
def execAdd (m n : Reg) (s : State) : Outcome := done (s.setR n (s.r n + s.r m))

/-- `ADD #imm,Rn` (R142). -/
def execAddImm (i : BitVec 8) (n : Reg) (s : State) : Outcome := done (s.setR n (s.r n + sext i))

/-- `ADDC Rm,Rn` (R143). -/
def execAddc (m n : Reg) (s : State) : Outcome :=
  let x := addWithCarry (s.r n) (s.r m) s.tBit
  done ((s.setR n x.1).setT x.2)

/-- `ADDV Rm,Rn` (R144). -/
def execAddv (m n : Reg) (s : State) : Outcome :=
  done ((s.setR n (s.r n + s.r m)).setT (addOverflow (s.r n) (s.r m)))

/-! ## Compare -/

/-- `CMP/EQ Rm,Rn` (R145). -/
def execCmpEq (m n : Reg) (s : State) : Outcome := done (s.setT (s.r n == s.r m))

/-- `CMP/GE Rm,Rn` (R146). -/
def execCmpGe (m n : Reg) (s : State) : Outcome := done (s.setT (signedGe (s.r n) (s.r m)))

/-- `CMP/GT Rm,Rn` (R147). -/
def execCmpGt (m n : Reg) (s : State) : Outcome := done (s.setT (signedGt (s.r n) (s.r m)))

/-- `CMP/HI Rm,Rn` (R148). -/
def execCmpHi (m n : Reg) (s : State) : Outcome := done (s.setT (unsignedGt (s.r n) (s.r m)))

/-- `CMP/HS Rm,Rn` (R149). -/
def execCmpHs (m n : Reg) (s : State) : Outcome := done (s.setT (unsignedGe (s.r n) (s.r m)))

/-- `CMP/PL Rn` (R150). -/
def execCmpPl (n : Reg) (s : State) : Outcome := done (s.setT (signedGt (s.r n) 0))

/-- `CMP/PZ Rn` (R151). -/
def execCmpPz (n : Reg) (s : State) : Outcome := done (s.setT (signedGe (s.r n) 0))

/-- `CMP/STR Rm,Rn` (R152). -/
def execCmpStr (m n : Reg) (s : State) : Outcome := done (s.setT (someByteEqual (s.r n) (s.r m)))

/-- `CMP/EQ #imm,R0` (R153). -/
def execCmpEqImm (i : BitVec 8) (s : State) : Outcome := done (s.setT (s.r 0 == sext i))

/-! ## Division -/

/-- `DIV0S Rm,Rn` (R154). -/
def execDiv0s (m n : Reg) (s : State) : Outcome :=
  let q := (s.r n).msb
  let d := (s.r m).msb
  done (((s.setQ q).setM d).setT (d ^^ q))

/-- `DIV0U` (R155). -/
def execDiv0u (s : State) : Outcome := done (((s.setM false).setQ false).setT false)

/-- `DIV1 Rm,Rn` (R156). -/
def execDiv1 (m n : Reg) (s : State) : Outcome :=
  let x := divStep s.qBit s.mBit s.tBit (s.r n) (s.r m)
  done (((s.setR n x.1).setQ x.2.1).setT x.2.2)

/-! ## Multiply -/

/-- MACH and MACL from a 64-bit value (10_state.md R44). -/
def State.setMac (s : State) (v : BitVec 64) : State :=
  { s with mach := v.extractLsb' 32 32, macl := v.extractLsb' 0 32 }

/-- MACL written, MACH kept (10_state.md R44). -/
def State.setMacl (s : State) (v : Word) : State := { s with macl := v }

/-- `DMULS.L Rm,Rn` (R158). -/
def execDmulsL (m n : Reg) (s : State) : Outcome :=
  done (s.setMac (BitVec.ofInt 64 ((s.r n).toInt * (s.r m).toInt)))

/-- `DMULU.L Rm,Rn` (R159). -/
def execDmuluL (m n : Reg) (s : State) : Outcome :=
  done (s.setMac (BitVec.ofNat 64 ((s.r n).toNat * (s.r m).toNat)))

/-- `MUL.L Rm,Rn` (R167). -/
def execMulL (m n : Reg) (s : State) : Outcome := done (s.setMacl (s.r n * s.r m))

/-- `MULS.W Rm,Rn` (R168). -/
def execMulsW (m n : Reg) (s : State) : Outcome :=
  done (s.setMacl (BitVec.ofInt 32 ((lowHalf (s.r n)).toInt * (lowHalf (s.r m)).toInt)))

/-- `MULU.W Rm,Rn` (R169). -/
def execMuluW (m n : Reg) (s : State) : Outcome :=
  done (s.setMacl (BitVec.ofNat 32 ((lowHalf (s.r n)).toNat * (lowHalf (s.r m)).toNat)))

/-! ## Multiply and accumulate (R165, R166) -/

/-- An integer brought into the signed range of `w + 1` bits. -/
def saturate (w : Nat) (r : Int) : Int :=
  if r < -(2 ^ w : Int) then -(2 ^ w : Int) else if (2 ^ w : Int) - 1 < r then (2 ^ w : Int) - 1 else r

/-- The MAC register plus a product modulo 2^64 (S = 0). -/
def macWrap (mach macl : Word) (p : Int) : BitVec 64 := (mach ++ macl) + BitVec.ofInt 64 p

/-- The 48-bit saturated sum of MACH[15:0]:MACL and a product (R165, S = 1). -/
def macLongSum (mach macl : Word) (p : Int) : BitVec 48 :=
  BitVec.ofInt 48 (saturate 47 ((lowHalf mach ++ macl).toInt + p))

/-- What MACH[31:16] become in a MAC.L with S = 1: kept, or copies of bit 47 of the sum, by `MACL_SAT_HIGH` (R165;
log 13). -/
def macLongHigh (c : Config.MaclSatHigh) (mach : Word) (sum : BitVec 48) : Half :=
  match c with
  | .preserve => mach.extractLsb' 16 16
  | .signext => if sum.msb then 0xFFFF#16 else 0#16

/-- MAC.L's update of MACH and MACL (R165). -/
def State.macLong (s : State) (p : Int) : State :=
  if s.sBit then
    let sum := macLongSum s.mach s.macl p
    { s with
      mach := macLongHigh s.params.maclSatHigh s.mach sum ++ sum.extractLsb' 32 16
      macl := sum.extractLsb' 0 32 }
  else s.setMac (macWrap s.mach s.macl p)

/-- MAC.W's sum with S = 1 overflows 32 bits (R166). -/
def macWordOverflow (macl : Word) (p : Int) : Bool :=
  decide (saturate 31 (macl.toInt + p) ≠ macl.toInt + p)

/-- MAC.W's update of MACH and MACL (R166). On a saturating overflow MACH[0] is its old value or 1, a free value
(log 12). -/
def State.macWord (s : State) (p : Int) : State :=
  if s.sBit then
    let t := s.setMacl (BitVec.ofInt 32 (saturate 31 (s.macl.toInt + p)))
    if macWordOverflow s.macl p then
      { t with
        mach := s.mach ||| (Config.freeBit s.freeCount).setWidth 32
        freeCount := s.freeCount + 1 }
    else t
  else s.setMac (macWrap s.mach s.macl p)

/-- `@Rn+` read of an operand: the pointer advances, and a second read through the same register sees it (R165). -/
def State.bump (s : State) (n : Reg) (size : Word) : State := s.setR n (s.r n + size)

/-- `MAC.L @Rm+,@Rn+` (R165). -/
def execMacL (m n : Reg) (s : State) : Outcome :=
  complete s (do
    let vn ← readLong s (s.r n)
    let t := (s.bump n 4).hostTaken (s.r n)
    let vm ← readLong t (t.r m)
    pure (((t.bump m 4).macLong (vn.toInt * vm.toInt)).hostTaken (t.r m)))

/-- `MAC.W @Rm+,@Rn+` (R166). -/
def execMacW (m n : Reg) (s : State) : Outcome :=
  complete s (do
    let vn ← readHalf s (s.r n)
    let t := (s.bump n 2).hostTaken (s.r n)
    let vm ← readHalf t (t.r m)
    pure (((t.bump m 2).macWord (vn.toInt * vm.toInt)).hostTaken (t.r m)))

/-! ## Decrement, extend, negate, subtract -/

/-- `DT Rn` (R160). -/
def execDt (n : Reg) (s : State) : Outcome := done ((s.setR n (s.r n - 1)).setT (s.r n - 1 == 0))

/-- `EXTS.B Rm,Rn` (R161). -/
def execExtsB (m n : Reg) (s : State) : Outcome := done (s.setR n (sext (lowByte (s.r m))))

/-- `EXTS.W Rm,Rn` (R162). -/
def execExtsW (m n : Reg) (s : State) : Outcome := done (s.setR n (sext (lowHalf (s.r m))))

/-- `EXTU.B Rm,Rn` (R163). -/
def execExtuB (m n : Reg) (s : State) : Outcome := done (s.setR n (zext (lowByte (s.r m))))

/-- `EXTU.W Rm,Rn` (R164). -/
def execExtuW (m n : Reg) (s : State) : Outcome := done (s.setR n (zext (lowHalf (s.r m))))

/-- `NEG Rm,Rn` (R170). -/
def execNeg (m n : Reg) (s : State) : Outcome := done (s.setR n (0 - s.r m))

/-- `NEGC Rm,Rn` (R171). -/
def execNegc (m n : Reg) (s : State) : Outcome :=
  let x := subWithBorrow 0 (s.r m) s.tBit
  done ((s.setR n x.1).setT x.2)

/-- `SUB Rm,Rn` (R172). -/
def execSub (m n : Reg) (s : State) : Outcome := done (s.setR n (s.r n - s.r m))

/-- `SUBC Rm,Rn` (R173). -/
def execSubc (m n : Reg) (s : State) : Outcome :=
  let x := subWithBorrow (s.r n) (s.r m) s.tBit
  done ((s.setR n x.1).setT x.2)

/-- `SUBV Rm,Rn` (R174). -/
def execSubv (m n : Reg) (s : State) : Outcome :=
  done ((s.setR n (s.r n - s.r m)).setT (subOverflow (s.r n) (s.r m)))

end Sys2Proof.Machine
end

