-- ==== Sys2Proof/Machine/Branch.lean ====
section
/-! DEFINITION. The meanings of the branch instructions (42_branch.md). Every one is slot illegal in a delay slot (R203).
A branch reads its operands before its slot executes (R201). -/

namespace Sys2Proof.Machine

/-- `BF label` (R205). -/
def execBf (d : BitVec 8) (s : State) : Outcome :=
  whenNotInSlot s (if s.tBit then done s else jumpTo s (s.branchTarget d))

/-- `BF/S label` (R206): the instruction that follows is in a delay slot whether or not the branch is taken (R202). -/
def execBfS (d : BitVec 8) (s : State) : Outcome :=
  whenNotInSlot s (delayedBranch s (if s.tBit then s.pc + 4 else s.branchTarget d))

/-- `BRA label` (R207). -/
def execBra (d : BitVec 12) (s : State) : Outcome := whenNotInSlot s (delayedBranch s (s.branchTarget d))

/-- `BRAF Rn` (R208). -/
def execBraf (n : Reg) (s : State) : Outcome := whenNotInSlot s (delayedBranch s (s.braTarget n))

/-- `BT label` (R209). -/
def execBt (d : BitVec 8) (s : State) : Outcome :=
  whenNotInSlot s (if s.tBit then jumpTo s (s.branchTarget d) else done s)

/-- `BT/S label` (R210): the instruction that follows is in a delay slot whether or not the branch is taken (R202). -/
def execBtS (d : BitVec 8) (s : State) : Outcome :=
  whenNotInSlot s (delayedBranch s (if s.tBit then s.branchTarget d else s.pc + 4))

/-- `JMP @Rn` (R211). -/
def execJmp (n : Reg) (s : State) : Outcome := whenNotInSlot s (delayedBranch s (s.r n))

/-- `RTS` (R212). -/
def execRts (s : State) : Outcome := whenNotInSlot s (delayedBranch s s.pr)

/-- PR written with the return address, before the slot executes (R201, R213). -/
def State.linked (s : State) : State := { s with pr := s.returnAddress }

/-- `BSR label` (R213). -/
def execBsr (d : BitVec 12) (s : State) : Outcome := whenNotInSlot s (delayedBranch s.linked (s.branchTarget d))

/-- `BSRF Rn` (R214). -/
def execBsrf (n : Reg) (s : State) : Outcome := whenNotInSlot s (delayedBranch s.linked (s.braTarget n))

/-- `JSR @Rn` (R215). -/
def execJsr (n : Reg) (s : State) : Outcome := whenNotInSlot s (delayedBranch s.linked (s.r n))

end Sys2Proof.Machine
end

