-- ==== Sys2Proof/Machine/CacheSync.lean ====
section
/-! DEFINITION. The meanings of the cache, linked, unaligned and synchronising instructions (45_cache_sync.md). The caches are not
state (R350 (c); log 29). -/

namespace Sys2Proof.Machine

/-- `ICBI @Rn` (R351): the address is checked as an instruction address; slot illegal in a delay slot (R350 (f)). -/
def execIcbi (n : Reg) (s : State) : Outcome :=
  whenNotInSlot s (complete s (do
    checkBlock s (s.r n) false .instructionAddressError
    pure { s with dirtyCode := setErase s.dirtyCode (blockOf (s.r n)).toNat }))

/-- `MOVCA.L R0,@Rn` (R352): a longword store, after which the other bytes of the block are free values (log 14). -/
def execMovcaL (n : Reg) (s : State) : Outcome :=
  storeLong s (s.r n) (s.r 0) (fun t => t.loseBlock (s.r n) (inLongOf (s.r n)))

/-- `MOVCO.L R0,@Rn` (R353): with LDST clear no access is made. -/
def execMovcoL (n : Reg) (s : State) : Outcome :=
  if s.ldst then storeLong s (s.r n) (s.r 0) (fun t => { t.setT true with ldst := false })
  else done { s.setT false with ldst := false }

/-- `MOVLI.L @Rm,R0` (R354). -/
def execMovliL (m : Reg) (s : State) : Outcome :=
  loadLong s (s.r m) (fun v => { s.setR 0 v with ldst := true })

/-- `MOVUA.L @Rm,R0` (R355). -/
def execMovuaL (m : Reg) (s : State) : Outcome :=
  loadUnaligned s (s.r m) (fun v => s.setR 0 v)

/-- `MOVUA.L @Rm+,R0` (R356): no increment when m = 0. -/
def execMovuaLInc (m : Reg) (s : State) : Outcome :=
  loadUnaligned s (s.r m) (fun v => s.loadInc m 0 4 v)

/-- `OCBI @Rn` (R357): checked as a store; the bytes of the block become free values (log 15), and the block joins
`dirty_code`. -/
def execOcbi (n : Reg) (s : State) : Outcome :=
  complete s (do
    checkBlock s (s.r n) true .dataAddressErrorWrite
    pure ((s.loseBlock (s.r n) (fun _ => false)).markDirty (s.r n)))

/-- `OCBP @Rn` (R358): checked as a load. -/
def execOcbp (n : Reg) (s : State) : Outcome :=
  complete s (do
    checkBlock s (s.r n) false .dataAddressErrorRead
    pure s)

/-- `OCBWB @Rn` (R359): checked as a load. -/
def execOcbwb (n : Reg) (s : State) : Outcome :=
  complete s (do
    checkBlock s (s.r n) false .dataAddressErrorRead
    pure s)

/-- `PREF @Rn` (R360): the address is not checked (20_memory.md R92). -/
def execPref (_n : Reg) (s : State) : Outcome := done s

/-- `PREFI @Rn` (R361): the address is not checked (20_memory.md R92); slot illegal in a delay slot (R350 (f)). -/
def execPrefi (_n : Reg) (s : State) : Outcome := whenNotInSlot s (done s)

/-- `SYNCO` (R362): with one agent it changes nothing else (20_memory.md R88). -/
def execSynco (s : State) : Outcome := done s

end Sys2Proof.Machine
end

