-- ==== Sys2Proof/Machine/DataTransfer.lean ====
section
/-! DEFINITION. The meanings of the moves (44_data_transfer.md). Loads sign-extend and stores write the low bits (R300). -/

namespace Sys2Proof.Machine

/-! ## Between registers, and register indirect -/

/-- `MOV Rm,Rn` (R301). -/
def execMov (m : Reg) (n : Reg) (s : State) : Outcome := done (s.setR n (s.r m))

/-- `MOV.B Rm,@Rn` (R302). -/
def execMovBStore (m : Reg) (n : Reg) (s : State) : Outcome := storeByte s (s.r n) (lowByte (s.r m)) id

/-- `MOV.W Rm,@Rn` (R303). -/
def execMovWStore (m : Reg) (n : Reg) (s : State) : Outcome := storeHalf s (s.r n) (lowHalf (s.r m)) id

/-- `MOV.L Rm,@Rn` (R304). -/
def execMovLStore (m : Reg) (n : Reg) (s : State) : Outcome := storeLong s (s.r n) (s.r m) id

/-- `MOV.B @Rm,Rn` (R305). -/
def execMovBLoad (m : Reg) (n : Reg) (s : State) : Outcome := loadByte s (s.r m) (fun v => s.setR n (sext v))

/-- `MOV.W @Rm,Rn` (R306). -/
def execMovWLoad (m : Reg) (n : Reg) (s : State) : Outcome := loadHalf s (s.r m) (fun v => s.setR n (sext v))

/-- `MOV.L @Rm,Rn` (R307). -/
def execMovLLoad (m : Reg) (n : Reg) (s : State) : Outcome := loadLong s (s.r m) (fun v => s.setR n v)

/-- `MOV.B Rm,@-Rn` (R308). -/
def execMovBStoreDec (m : Reg) (n : Reg) (s : State) : Outcome :=
  storeByte s (s.r n - 1) (lowByte (s.r m)) (fun t => t.setR n (s.r n - 1))

/-- `MOV.W Rm,@-Rn` (R309). -/
def execMovWStoreDec (m : Reg) (n : Reg) (s : State) : Outcome :=
  storeHalf s (s.r n - 2) (lowHalf (s.r m)) (fun t => t.setR n (s.r n - 2))

/-- `MOV.L Rm,@-Rn` (R310). -/
def execMovLStoreDec (m : Reg) (n : Reg) (s : State) : Outcome :=
  storeLong s (s.r n - 4) (s.r m) (fun t => t.setR n (s.r n - 4))

/-- `MOV.B @Rm+,Rn` (R311). -/
def execMovBLoadInc (m : Reg) (n : Reg) (s : State) : Outcome :=
  loadByte s (s.r m) (fun v => s.loadInc m n 1 (sext v))

/-- `MOV.W @Rm+,Rn` (R312). -/
def execMovWLoadInc (m : Reg) (n : Reg) (s : State) : Outcome :=
  loadHalf s (s.r m) (fun v => s.loadInc m n 2 (sext v))

/-- `MOV.L @Rm+,Rn` (R313). -/
def execMovLLoadInc (m : Reg) (n : Reg) (s : State) : Outcome := loadLong s (s.r m) (fun v => s.loadInc m n 4 v)

/-- `MOV.B Rm,@(R0,Rn)` (R314). -/
def execMovBStoreIdx (m : Reg) (n : Reg) (s : State) : Outcome := storeByte s (s.indexed n) (lowByte (s.r m)) id

/-- `MOV.W Rm,@(R0,Rn)` (R315). -/
def execMovWStoreIdx (m : Reg) (n : Reg) (s : State) : Outcome := storeHalf s (s.indexed n) (lowHalf (s.r m)) id

/-- `MOV.L Rm,@(R0,Rn)` (R316). -/
def execMovLStoreIdx (m : Reg) (n : Reg) (s : State) : Outcome := storeLong s (s.indexed n) (s.r m) id

/-- `MOV.B @(R0,Rm),Rn` (R317). -/
def execMovBLoadIdx (m : Reg) (n : Reg) (s : State) : Outcome := loadByte s (s.indexed m) (fun v => s.setR n (sext v))

/-- `MOV.W @(R0,Rm),Rn` (R318). -/
def execMovWLoadIdx (m : Reg) (n : Reg) (s : State) : Outcome := loadHalf s (s.indexed m) (fun v => s.setR n (sext v))

/-- `MOV.L @(R0,Rm),Rn` (R319). -/
def execMovLLoadIdx (m : Reg) (n : Reg) (s : State) : Outcome := loadLong s (s.indexed m) (fun v => s.setR n v)

/-! ## Immediate and PC-relative -/

/-- `MOV #imm,Rn` (R320). -/
def execMovImm (i : BitVec 8) (n : Reg) (s : State) : Outcome := done (s.setR n (sext i))

/-- `MOV.W @(disp,PC),Rn` (R321). Slot illegal in a delay slot (R300 (g)). -/
def execMovWLoadPc (d : BitVec 8) (n : Reg) (s : State) : Outcome :=
  whenNotInSlot s (loadHalf s (s.pcDispWord d) (fun v => s.setR n (sext v)))

/-- `MOV.L @(disp,PC),Rn` (R322). Slot illegal in a delay slot (R300 (g)). -/
def execMovLLoadPc (d : BitVec 8) (n : Reg) (s : State) : Outcome :=
  whenNotInSlot s (loadLong s (s.pcDispLong d) (fun v => s.setR n v))

/-! ## GBR relative -/

/-- `MOV.B @(disp,GBR),R0` (R323). -/
def execMovBLoadGbr (d : BitVec 8) (s : State) : Outcome := loadByte s (s.gbrDisp 1 d) (fun v => s.setR 0 (sext v))

/-- `MOV.W @(disp,GBR),R0` (R324). -/
def execMovWLoadGbr (d : BitVec 8) (s : State) : Outcome := loadHalf s (s.gbrDisp 2 d) (fun v => s.setR 0 (sext v))

/-- `MOV.L @(disp,GBR),R0` (R325). -/
def execMovLLoadGbr (d : BitVec 8) (s : State) : Outcome := loadLong s (s.gbrDisp 4 d) (fun v => s.setR 0 v)

/-- `MOV.B R0,@(disp,GBR)` (R326). -/
def execMovBStoreGbr (d : BitVec 8) (s : State) : Outcome := storeByte s (s.gbrDisp 1 d) (lowByte (s.r 0)) id

/-- `MOV.W R0,@(disp,GBR)` (R327). -/
def execMovWStoreGbr (d : BitVec 8) (s : State) : Outcome := storeHalf s (s.gbrDisp 2 d) (lowHalf (s.r 0)) id

/-- `MOV.L R0,@(disp,GBR)` (R328). -/
def execMovLStoreGbr (d : BitVec 8) (s : State) : Outcome := storeLong s (s.gbrDisp 4 d) (s.r 0) id

/-! ## Register plus displacement -/

/-- `MOV.B R0,@(disp,Rn)` (R329). -/
def execMovBStoreDisp (d : BitVec 4) (n : Reg) (s : State) : Outcome :=
  storeByte s (s.regDisp n 1 d) (lowByte (s.r 0)) id

/-- `MOV.W R0,@(disp,Rn)` (R330). -/
def execMovWStoreDisp (d : BitVec 4) (n : Reg) (s : State) : Outcome :=
  storeHalf s (s.regDisp n 2 d) (lowHalf (s.r 0)) id

/-- `MOV.L Rm,@(disp,Rn)` (R331). -/
def execMovLStoreDisp (m : Reg) (d : BitVec 4) (n : Reg) (s : State) : Outcome :=
  storeLong s (s.regDisp n 4 d) (s.r m) id

/-- `MOV.B @(disp,Rm),R0` (R332). -/
def execMovBLoadDisp (d : BitVec 4) (m : Reg) (s : State) : Outcome :=
  loadByte s (s.regDisp m 1 d) (fun v => s.setR 0 (sext v))

/-- `MOV.W @(disp,Rm),R0` (R333). -/
def execMovWLoadDisp (d : BitVec 4) (m : Reg) (s : State) : Outcome :=
  loadHalf s (s.regDisp m 2 d) (fun v => s.setR 0 (sext v))

/-- `MOV.L @(disp,Rm),Rn` (R334). -/
def execMovLLoadDisp (d : BitVec 4) (m : Reg) (n : Reg) (s : State) : Outcome :=
  loadLong s (s.regDisp m 4 d) (fun v => s.setR n v)

/-! ## MOVA, MOVT, SWAP, XTRCT -/

/-- `MOVA @(disp,PC),R0` (R335). Slot illegal in a delay slot (R300 (g)). -/
def execMova (d : BitVec 8) (s : State) : Outcome := whenNotInSlot s (done (s.setR 0 (s.pcDispLong d)))

/-- `MOVT Rn` (R336). -/
def execMovt (n : Reg) (s : State) : Outcome := done (s.setR n (if s.tBit then 1#32 else 0#32))

/-- `SWAP.B Rm,Rn` (R337). -/
def execSwapB (m : Reg) (n : Reg) (s : State) : Outcome :=
  done (s.setR n ((s.r m).extractLsb' 16 16 ++ (s.r m).extractLsb' 0 8 ++ (s.r m).extractLsb' 8 8))

/-- `SWAP.W Rm,Rn` (R338). -/
def execSwapW (m : Reg) (n : Reg) (s : State) : Outcome :=
  done (s.setR n ((s.r m).extractLsb' 0 16 ++ (s.r m).extractLsb' 16 16))

/-- `XTRCT Rm,Rn` (R339). -/
def execXtrct (m : Reg) (n : Reg) (s : State) : Outcome :=
  done (s.setR n ((s.r m).extractLsb' 0 16 ++ (s.r n).extractLsb' 16 16))

end Sys2Proof.Machine
end

