-- ==== Sys2Proof/Machine/DspControl.lean ====
section
/-! DEFINITION. The meanings of the DSP-related control instructions (47_dsp_control.md). The mode check comes first (R390). -/

namespace Sys2Proof.Machine

/-! ## Modulo addressing bits -/

/-- `CLRDMXY` (R391). -/
def execClrdmxy (s : State) : Outcome := whenDsp s (done (s.setDmxDmy false false))

/-- `SETDMX` (R416). -/
def execSetdmx (s : State) : Outcome := whenDsp s (done (s.setDmxDmy true false))

/-- `SETDMY` (R417). -/
def execSetdmy (s : State) : Outcome := whenDsp s (done (s.setDmxDmy false true))

/-! ## SR -/

/-- `LDC Rm,SR` (R392). Slot illegal in a delay slot, in every mode. -/
def execLdcSr (m : Reg) (s : State) : Outcome :=
  whenNotInSlot s (whenPrivilegedOrDsp s (done { s with sr := s.srLoad (s.r m) }))

/-- `LDC.L @Rm+,SR` (R396). Slot illegal in a delay slot, in every mode. A load that switches the bank of its own pointer
is refused (log 24). -/
def execLdcLSr (m : Reg) (s : State) : Outcome :=
  whenNotInSlot s (whenPrivilegedOrDsp s (complete s (do
    let v ← readLong s (s.r m)
    let t := { s with sr := s.srLoad v }
    if t.bankSel != s.bankSel && !m.msb then .error (.refused .bankSwitchOfPointer)
    else pure ((t.setR m (s.r m + 4)).hostTaken (s.r m)))))

/-- `STC SR,Rn` (R420). -/
def execStcSr (n : Reg) (s : State) : Outcome := whenPrivilegedOrDsp s (done (s.setR n s.sr))

/-- `STC.L SR,@-Rn` (R424). -/
def execStcLSr (n : Reg) (s : State) : Outcome := whenPrivilegedOrDsp s (pushLong s n s.sr)

/-! ## MOD, RE, RS -/

/-- `LDC Rm,MOD` (R393). -/
def execLdcMod (m : Reg) (s : State) : Outcome := whenDsp s (done { s with mod := s.r m })

/-- `LDC Rm,RE` (R394). -/
def execLdcRe (m : Reg) (s : State) : Outcome := whenDsp s (done { s with re := s.r m })

/-- `LDC Rm,RS` (R395). -/
def execLdcRs (m : Reg) (s : State) : Outcome := whenDsp s (done { s with rs := s.r m })

/-- `LDC.L @Rm+,MOD` (R397). -/
def execLdcLMod (m : Reg) (s : State) : Outcome := whenDsp s (popLong s m (fun v => { s with mod := v }))

/-- `LDC.L @Rm+,RE` (R398). -/
def execLdcLRe (m : Reg) (s : State) : Outcome := whenDsp s (popLong s m (fun v => { s with re := v }))

/-- `LDC.L @Rm+,RS` (R399). -/
def execLdcLRs (m : Reg) (s : State) : Outcome := whenDsp s (popLong s m (fun v => { s with rs := v }))

/-- `STC MOD,Rn` (R421). -/
def execStcMod (n : Reg) (s : State) : Outcome := whenDsp s (done (s.setR n s.mod))

/-- `STC RE,Rn` (R422). -/
def execStcRe (n : Reg) (s : State) : Outcome := whenDsp s (done (s.setR n s.re))

/-- `STC RS,Rn` (R423). -/
def execStcRs (n : Reg) (s : State) : Outcome := whenDsp s (done (s.setR n s.rs))

/-- `STC.L MOD,@-Rn` (R425). -/
def execStcLMod (n : Reg) (s : State) : Outcome := whenDsp s (pushLong s n s.mod)

/-- `STC.L RE,@-Rn` (R426). -/
def execStcLRe (n : Reg) (s : State) : Outcome := whenDsp s (pushLong s n s.re)

/-- `STC.L RS,@-Rn` (R427). -/
def execStcLRs (n : Reg) (s : State) : Outcome := whenDsp s (pushLong s n s.rs)

/-! ## Repeat control -/

/-- `SETRC Rm` (R418). -/
def execSetrc (m : Reg) (s : State) : Outcome := whenDsp s (complete s (setRepeatCount s ((s.r m).extractLsb' 0 12)))

/-- `SETRC #imm` (R419). -/
def execSetrcImm (i : BitVec 8) (s : State) : Outcome := whenDsp s (complete s (setRepeatCount s (i.setWidth 12)))

/-- `LDRC Rm` (R400). -/
def execLdrc (m : Reg) (s : State) : Outcome :=
  whenDsp s (complete s ((setRepeatCount s ((s.r m).extractLsb' 0 12)).map (·.markExtendedRepeat)))

/-- `LDRC #imm` (R401). -/
def execLdrcImm (i : BitVec 8) (s : State) : Outcome :=
  whenDsp s (complete s ((setRepeatCount s (i.setWidth 12)).map (·.markExtendedRepeat)))

/-- `LDRE @(disp,PC)` (R402). Slot illegal in a delay slot. -/
def execLdre (d : BitVec 8) (s : State) : Outcome :=
  whenNotInSlot s (whenDsp s (done { s with re := s.repeatAddress d }))

/-- `LDRS @(disp,PC)` (R415). Slot illegal in a delay slot. -/
def execLdrs (d : BitVec 8) (s : State) : Outcome :=
  whenNotInSlot s (whenDsp s (done { s with rs := s.repeatAddress d }))

/-! ## DSP registers -/

/-- DSR written from the CPU: bits 3 to 0 (R403). -/
def State.setDsr (s : State) (v : Word) : State := { s with dsr := v &&& 0x0000000F#32 }

/-- A0 written, its sign extended into the guard bits A0G (R404). -/
def State.setA0 (s : State) (v : Word) : State :=
  { s with a0 := v, a0g := if v.msb then 0xFF#8 else 0x00#8 }

/-- `LDS Rm,DSR` (R403). -/
def execLdsDsr (m : Reg) (s : State) : Outcome := whenDsp s (done (s.setDsr (s.r m)))

/-- `LDS Rm,A0` (R404). -/
def execLdsA0 (m : Reg) (s : State) : Outcome := whenDsp s (done (s.setA0 (s.r m)))

/-- `LDS Rm,X0` (R405). -/
def execLdsX0 (m : Reg) (s : State) : Outcome := whenDsp s (done { s with x0 := s.r m })

/-- `LDS Rm,X1` (R406). -/
def execLdsX1 (m : Reg) (s : State) : Outcome := whenDsp s (done { s with x1 := s.r m })

/-- `LDS Rm,Y0` (R407). -/
def execLdsY0 (m : Reg) (s : State) : Outcome := whenDsp s (done { s with y0 := s.r m })

/-- `LDS Rm,Y1` (R408). -/
def execLdsY1 (m : Reg) (s : State) : Outcome := whenDsp s (done { s with y1 := s.r m })

/-- `LDS.L @Rm+,DSR` (R409). -/
def execLdsLDsr (m : Reg) (s : State) : Outcome := whenDsp s (popLong s m (fun v => s.setDsr v))

/-- `LDS.L @Rm+,A0` (R410). -/
def execLdsLA0 (m : Reg) (s : State) : Outcome := whenDsp s (popLong s m (fun v => s.setA0 v))

/-- `LDS.L @Rm+,X0` (R411). -/
def execLdsLX0 (m : Reg) (s : State) : Outcome := whenDsp s (popLong s m (fun v => { s with x0 := v }))

/-- `LDS.L @Rm+,X1` (R412). -/
def execLdsLX1 (m : Reg) (s : State) : Outcome := whenDsp s (popLong s m (fun v => { s with x1 := v }))

/-- `LDS.L @Rm+,Y0` (R413). -/
def execLdsLY0 (m : Reg) (s : State) : Outcome := whenDsp s (popLong s m (fun v => { s with y0 := v }))

/-- `LDS.L @Rm+,Y1` (R414). -/
def execLdsLY1 (m : Reg) (s : State) : Outcome := whenDsp s (popLong s m (fun v => { s with y1 := v }))

/-- `STS DSR,Rn` (R428). -/
def execStsDsr (n : Reg) (s : State) : Outcome := whenDsp s (done (s.setR n s.dsr))

/-- `STS A0,Rn` (R429). -/
def execStsA0 (n : Reg) (s : State) : Outcome := whenDsp s (done (s.setR n s.a0))

/-- `STS X0,Rn` (R430). -/
def execStsX0 (n : Reg) (s : State) : Outcome := whenDsp s (done (s.setR n s.x0))

/-- `STS X1,Rn` (R431). -/
def execStsX1 (n : Reg) (s : State) : Outcome := whenDsp s (done (s.setR n s.x1))

/-- `STS Y0,Rn` (R432). -/
def execStsY0 (n : Reg) (s : State) : Outcome := whenDsp s (done (s.setR n s.y0))

/-- `STS Y1,Rn` (R433). -/
def execStsY1 (n : Reg) (s : State) : Outcome := whenDsp s (done (s.setR n s.y1))

/-- `STS.L DSR,@-Rn` (R434). -/
def execStsLDsr (n : Reg) (s : State) : Outcome := whenDsp s (pushLong s n s.dsr)

/-- `STS.L A0,@-Rn` (R435). -/
def execStsLA0 (n : Reg) (s : State) : Outcome := whenDsp s (pushLong s n s.a0)

/-- `STS.L X0,@-Rn` (R436). -/
def execStsLX0 (n : Reg) (s : State) : Outcome := whenDsp s (pushLong s n s.x0)

/-- `STS.L X1,@-Rn` (R437). -/
def execStsLX1 (n : Reg) (s : State) : Outcome := whenDsp s (pushLong s n s.x1)

/-- `STS.L Y0,@-Rn` (R438). -/
def execStsLY0 (n : Reg) (s : State) : Outcome := whenDsp s (pushLong s n s.y0)

/-- `STS.L Y1,@-Rn` (R439). -/
def execStsLY1 (n : Reg) (s : State) : Outcome := whenDsp s (pushLong s n s.y1)

end Sys2Proof.Machine
end

