-- ==== Sys2Proof/Machine/Logical.lean ====
section
/-! DEFINITION. The meanings of the logical instructions (41_logical.md). -/

namespace Sys2Proof.Machine

/-- `AND Rm,Rn` (R181). -/
def execAndReg (m n : Reg) (s : State) : Outcome := done (s.setR n (s.r n &&& s.r m))

/-- `AND #imm,R0` (R182). -/
def execAndImm (i : BitVec 8) (s : State) : Outcome := done (s.setR 0 (s.r 0 &&& zext i))

/-- `AND.B #imm,@(R0,GBR)` (R183). -/
def execAndB (i : BitVec 8) (s : State) : Outcome :=
  updateByte s s.gbrIndexed (fun b => b &&& i) (fun _ t => t)

/-- `NOT Rm,Rn` (R184). -/
def execNotReg (m n : Reg) (s : State) : Outcome := done (s.setR n (~~~(s.r m)))

/-- `OR Rm,Rn` (R185). -/
def execOrReg (m n : Reg) (s : State) : Outcome := done (s.setR n (s.r n ||| s.r m))

/-- `OR #imm,R0` (R186). -/
def execOrImm (i : BitVec 8) (s : State) : Outcome := done (s.setR 0 (s.r 0 ||| zext i))

/-- `OR.B #imm,@(R0,GBR)` (R187). -/
def execOrB (i : BitVec 8) (s : State) : Outcome :=
  updateByte s s.gbrIndexed (fun b => b ||| i) (fun _ t => t)

/-- `TAS.B @Rn` (R188). The purge of the cache block has no modelled effect (20_memory.md R90). -/
def execTasB (n : Reg) (s : State) : Outcome :=
  updateByte s (s.r n) (fun b => b ||| 0x80#8) (fun b t => t.setT (b == 0))

/-- `TST Rm,Rn` (R189). -/
def execTstReg (m n : Reg) (s : State) : Outcome := done (s.setT (testZero (s.r n) (s.r m)))

/-- `TST #imm,R0` (R190). -/
def execTstImm (i : BitVec 8) (s : State) : Outcome := done (s.setT (testZero (s.r 0) (zext i)))

/-- `TST.B #imm,@(R0,GBR)` (R191): checked as a load and a store, though it stores nothing (R180 (e)). -/
def execTstB (i : BitVec 8) (s : State) : Outcome :=
  complete s ((readByteForUpdate s s.gbrIndexed).map (fun b => (s.setT (b &&& i == 0)).hostTaken s.gbrIndexed))

/-- `XOR Rm,Rn` (R192). -/
def execXorReg (m n : Reg) (s : State) : Outcome := done (s.setR n (s.r n ^^^ s.r m))

/-- `XOR #imm,R0` (R193). -/
def execXorImm (i : BitVec 8) (s : State) : Outcome := done (s.setR 0 (s.r 0 ^^^ zext i))

/-- `XOR.B #imm,@(R0,GBR)` (R194). -/
def execXorB (i : BitVec 8) (s : State) : Outcome :=
  updateByte s s.gbrIndexed (fun b => b ^^^ i) (fun _ t => t)

end Sys2Proof.Machine
end

