-- ==== Sys2Proof/Machine/Shift.lean ====
section
/-! DEFINITION. The meanings of the shift and rotate instructions (46_shift.md). The one-bit forms put the bit shifted out in T, the
others leave T alone (R370 (c)). -/

namespace Sys2Proof.Machine

/-! ## Rotates and one-bit shifts -/

/-- `ROTCL Rn` (R371). -/
def execRotcl (n : Reg) (s : State) : Outcome :=
  done ((s.setR n ((s.r n).extractLsb' 0 31 ++ BitVec.ofBool s.tBit)).setT (s.r n).msb)

/-- `ROTCR Rn` (R372). -/
def execRotcr (n : Reg) (s : State) : Outcome :=
  done ((s.setR n (BitVec.ofBool s.tBit ++ (s.r n).extractLsb' 1 31)).setT ((s.r n).getLsbD 0))

/-- `ROTL Rn` (R373). -/
def execRotl (n : Reg) (s : State) : Outcome := done ((s.setR n ((s.r n).rotateLeft 1)).setT (s.r n).msb)

/-- `ROTR Rn` (R374). -/
def execRotr (n : Reg) (s : State) : Outcome := done ((s.setR n ((s.r n).rotateRight 1)).setT ((s.r n).getLsbD 0))

/-- `SHAL Rn` (R376). -/
def execShal (n : Reg) (s : State) : Outcome := done ((s.setR n (s.r n <<< 1)).setT (s.r n).msb)

/-- `SHAR Rn` (R377). -/
def execShar (n : Reg) (s : State) : Outcome := done ((s.setR n ((s.r n).sshiftRight 1)).setT ((s.r n).getLsbD 0))

/-- `SHLL Rn` (R379). -/
def execShll (n : Reg) (s : State) : Outcome := done ((s.setR n (s.r n <<< 1)).setT (s.r n).msb)

/-- `SHLR Rn` (R383). -/
def execShlr (n : Reg) (s : State) : Outcome := done ((s.setR n (s.r n >>> 1)).setT ((s.r n).getLsbD 0))

/-! ## Fixed multi-bit shifts -/

/-- `SHLL2 Rn` (R380). -/
def execShll2 (n : Reg) (s : State) : Outcome := done (s.setR n (s.r n <<< 2))

/-- `SHLL8 Rn` (R381). -/
def execShll8 (n : Reg) (s : State) : Outcome := done (s.setR n (s.r n <<< 8))

/-- `SHLL16 Rn` (R382). -/
def execShll16 (n : Reg) (s : State) : Outcome := done (s.setR n (s.r n <<< 16))

/-- `SHLR2 Rn` (R384). -/
def execShlr2 (n : Reg) (s : State) : Outcome := done (s.setR n (s.r n >>> 2))

/-- `SHLR8 Rn` (R385). -/
def execShlr8 (n : Reg) (s : State) : Outcome := done (s.setR n (s.r n >>> 8))

/-- `SHLR16 Rn` (R386). -/
def execShlr16 (n : Reg) (s : State) : Outcome := done (s.setR n (s.r n >>> 16))

/-! ## Dynamic shifts -/

/-- The shift count in the low five bits of Rm (R375, R378). -/
def shiftCount (v : Word) : Nat := (v.extractLsb' 0 5).toNat

/-- SHAD's result: left by the count for a Rm that is not negative, else arithmetically right by 32 less the count
(R375). -/
def shiftArith (v by_ : Word) : Word :=
  if by_.msb then v.sshiftRight (32 - shiftCount by_) else v <<< shiftCount by_

/-- SHLD's result: as SHAD's, with zeros entering on the left (R378). -/
def shiftLogic (v by_ : Word) : Word :=
  if by_.msb then v >>> (32 - shiftCount by_) else v <<< shiftCount by_

/-- `SHAD Rm,Rn` (R375). -/
def execShad (m : Reg) (n : Reg) (s : State) : Outcome := done (s.setR n (shiftArith (s.r n) (s.r m)))

/-- `SHLD Rm,Rn` (R378). -/
def execShld (m : Reg) (n : Reg) (s : State) : Outcome := done (s.setR n (shiftLogic (s.r n) (s.r m)))

end Sys2Proof.Machine
end

