-- ==== Sys2Proof/Machine/SystemControl.lean ====
section
/-! DEFINITION. The meanings of the system control instructions of 43_system_control.md. A privileged instruction checks the mode
before anything else (R230 (a), 30_encoding.md R123). -/

namespace Sys2Proof.Machine

/-! ## Flags, MAC, NOP -/

/-- `CLRMAC` (R231). -/
def execClrmac (s : State) : Outcome := done { s with mach := 0, macl := 0 }

/-- `CLRS` (R232). -/
def execClrs (s : State) : Outcome := done (s.setS false)

/-- `CLRT` (R233). -/
def execClrt (s : State) : Outcome := done (s.setT false)

/-- `SETS` (R257). -/
def execSets (s : State) : Outcome := done (s.setS true)

/-- `SETT` (R258). -/
def execSett (s : State) : Outcome := done (s.setT true)

/-- `NOP` (R255). -/
def execNop (s : State) : Outcome := done s

/-! ## LDC and LDC.L -/

/-- `LDC Rm,GBR` (R234). -/
def execLdcGbr (m : Reg) (s : State) : Outcome := done { s with gbr := s.r m }

/-- `LDC Rm,VBR` (R235). -/
def execLdcVbr (m : Reg) (s : State) : Outcome := whenPrivileged s (done { s with vbr := s.r m })

/-- `LDC Rm,SGR` (R236). -/
def execLdcSgr (m : Reg) (s : State) : Outcome := whenPrivileged s (done { s with sgr := s.r m })

/-- `LDC Rm,SSR` (R237). -/
def execLdcSsr (m : Reg) (s : State) : Outcome := whenPrivileged s (done { s with ssr := s.r m })

/-- `LDC Rm,SPC` (R238). -/
def execLdcSpc (m : Reg) (s : State) : Outcome := whenPrivileged s (done { s with spc := s.r m })

/-- `LDC Rm,DBR` (R239). -/
def execLdcDbr (m : Reg) (s : State) : Outcome := whenPrivileged s (done { s with dbr := s.r m })

/-- `LDC Rm,Rb_BANK` (R240). -/
def execLdcBank (m : Reg) (b : BankReg) (s : State) : Outcome := whenPrivileged s (done (s.setBankR b (s.r m)))

/-- `LDC.L @Rm+,GBR` (R241). -/
def execLdcLGbr (m : Reg) (s : State) : Outcome := popLong s m (fun v => { s with gbr := v })

/-- `LDC.L @Rm+,VBR` (R242). -/
def execLdcLVbr (m : Reg) (s : State) : Outcome := whenPrivileged s (popLong s m (fun v => { s with vbr := v }))

/-- `LDC.L @Rm+,SGR` (R243). -/
def execLdcLSgr (m : Reg) (s : State) : Outcome := whenPrivileged s (popLong s m (fun v => { s with sgr := v }))

/-- `LDC.L @Rm+,SSR` (R244). -/
def execLdcLSsr (m : Reg) (s : State) : Outcome := whenPrivileged s (popLong s m (fun v => { s with ssr := v }))

/-- `LDC.L @Rm+,SPC` (R245). -/
def execLdcLSpc (m : Reg) (s : State) : Outcome := whenPrivileged s (popLong s m (fun v => { s with spc := v }))

/-- `LDC.L @Rm+,DBR` (R246). -/
def execLdcLDbr (m : Reg) (s : State) : Outcome := whenPrivileged s (popLong s m (fun v => { s with dbr := v }))

/-- `LDC.L @Rm+,Rb_BANK` (R247). -/
def execLdcLBank (m : Reg) (b : BankReg) (s : State) : Outcome :=
  whenPrivileged s (popLong s m (fun v => s.setBankR b v))

/-! ## LDS and LDS.L -/

/-- `LDS Rm,MACH` (R248). -/
def execLdsMach (m : Reg) (s : State) : Outcome := done { s with mach := s.r m }

/-- `LDS Rm,MACL` (R249). -/
def execLdsMacl (m : Reg) (s : State) : Outcome := done { s with macl := s.r m }

/-- `LDS Rm,PR` (R250). -/
def execLdsPr (m : Reg) (s : State) : Outcome := done { s with pr := s.r m }

/-- `LDS.L @Rm+,MACH` (R251). -/
def execLdsLMach (m : Reg) (s : State) : Outcome := popLong s m (fun v => { s with mach := v })

/-- `LDS.L @Rm+,MACL` (R252). -/
def execLdsLMacl (m : Reg) (s : State) : Outcome := popLong s m (fun v => { s with macl := v })

/-- `LDS.L @Rm+,PR` (R253). -/
def execLdsLPr (m : Reg) (s : State) : Outcome := popLong s m (fun v => { s with pr := v })

/-! ## STC and STC.L -/

/-- `STC GBR,Rn` (R260). -/
def execStcGbr (n : Reg) (s : State) : Outcome := done (s.setR n s.gbr)

/-- `STC VBR,Rn` (R261). -/
def execStcVbr (n : Reg) (s : State) : Outcome := whenPrivileged s (done (s.setR n s.vbr))

/-- `STC SSR,Rn` (R262). -/
def execStcSsr (n : Reg) (s : State) : Outcome := whenPrivileged s (done (s.setR n s.ssr))

/-- `STC SPC,Rn` (R263). -/
def execStcSpc (n : Reg) (s : State) : Outcome := whenPrivileged s (done (s.setR n s.spc))

/-- `STC SGR,Rn` (R264). -/
def execStcSgr (n : Reg) (s : State) : Outcome := whenPrivileged s (done (s.setR n s.sgr))

/-- `STC DBR,Rn` (R265). -/
def execStcDbr (n : Reg) (s : State) : Outcome := whenPrivileged s (done (s.setR n s.dbr))

/-- `STC Rb_BANK,Rn` (R266). -/
def execStcBank (b : BankReg) (n : Reg) (s : State) : Outcome := whenPrivileged s (done (s.setR n (s.bankR b)))

/-- `STC.L GBR,@-Rn` (R267). -/
def execStcLGbr (n : Reg) (s : State) : Outcome := pushLong s n s.gbr

/-- `STC.L VBR,@-Rn` (R268). -/
def execStcLVbr (n : Reg) (s : State) : Outcome := whenPrivileged s (pushLong s n s.vbr)

/-- `STC.L SSR,@-Rn` (R269). -/
def execStcLSsr (n : Reg) (s : State) : Outcome := whenPrivileged s (pushLong s n s.ssr)

/-- `STC.L SPC,@-Rn` (R270). -/
def execStcLSpc (n : Reg) (s : State) : Outcome := whenPrivileged s (pushLong s n s.spc)

/-- `STC.L SGR,@-Rn` (R271). -/
def execStcLSgr (n : Reg) (s : State) : Outcome := whenPrivileged s (pushLong s n s.sgr)

/-- `STC.L DBR,@-Rn` (R272). -/
def execStcLDbr (n : Reg) (s : State) : Outcome := whenPrivileged s (pushLong s n s.dbr)

/-- `STC.L Rb_BANK,@-Rn` (R273). -/
def execStcLBank (b : BankReg) (n : Reg) (s : State) : Outcome := whenPrivileged s (pushLong s n (s.bankR b))

/-! ## STS and STS.L -/

/-- `STS MACH,Rn` (R274). -/
def execStsMach (n : Reg) (s : State) : Outcome := done (s.setR n s.mach)

/-- `STS MACL,Rn` (R275). -/
def execStsMacl (n : Reg) (s : State) : Outcome := done (s.setR n s.macl)

/-- `STS PR,Rn` (R276). -/
def execStsPr (n : Reg) (s : State) : Outcome := done (s.setR n s.pr)

/-- `STS.L MACH,@-Rn` (R277). -/
def execStsLMach (n : Reg) (s : State) : Outcome := pushLong s n s.mach

/-- `STS.L MACL,@-Rn` (R278). -/
def execStsLMacl (n : Reg) (s : State) : Outcome := pushLong s n s.macl

/-- `STS.L PR,@-Rn` (R279). -/
def execStsLPr (n : Reg) (s : State) : Outcome := pushLong s n s.pr

/-! ## LDTLB, SLEEP, TRAPA, RTE -/

/-- `LDTLB` (R254): refused in privileged mode, or, where the launch has a TLB, the load of R48 (log 17). -/
def execLdtlb (s : State) : Outcome := whenPrivileged s (complete s s.useLdtlb)

/-- `SLEEP` (R259). The pc advances, so that an interrupt returns after SLEEP. -/
def execSleep (s : State) : Outcome := whenPrivileged s (done { s with asleep := true })

/-- `TRAPA #imm` (R280). The entry of its trap is its function (60_exceptions.md R453). -/
def execTrapa (i : BitVec 8) (s : State) : Outcome :=
  whenNotInSlot s (raise .unconditionalTrap { s with tra := zext i <<< 2 })

/-- `RTE` (R256). -/
def execRte (s : State) : Outcome := whenNotInSlot s (whenPrivileged s (returnFromException s))

end Sys2Proof.Machine
end

