-- ==== Sys2Proof/Machine/Dispatch.lean ====
section
/-! DEFINITION. The meaning of every instruction: one direct call of its own definition for each constructor. -/

namespace Sys2Proof.Machine

/-- What executing an instruction at a state answers (00_scope.md R11). -/
def exec (i : Instr) (s : State) : Host.Outcome State Fault Refusal :=
  match i with
  -- 40_arithmetic.md
  | .add m n => Sys2Proof.Machine.execAdd m n s
  | .addImm imm n => Sys2Proof.Machine.execAddImm imm n s
  | .addc m n => Sys2Proof.Machine.execAddc m n s
  | .addv m n => Sys2Proof.Machine.execAddv m n s
  | .cmpEq m n => Sys2Proof.Machine.execCmpEq m n s
  | .cmpGe m n => Sys2Proof.Machine.execCmpGe m n s
  | .cmpGt m n => Sys2Proof.Machine.execCmpGt m n s
  | .cmpHi m n => Sys2Proof.Machine.execCmpHi m n s
  | .cmpHs m n => Sys2Proof.Machine.execCmpHs m n s
  | .cmpPl n => Sys2Proof.Machine.execCmpPl n s
  | .cmpPz n => Sys2Proof.Machine.execCmpPz n s
  | .cmpStr m n => Sys2Proof.Machine.execCmpStr m n s
  | .cmpEqImm imm => Sys2Proof.Machine.execCmpEqImm imm s
  | .div0s m n => Sys2Proof.Machine.execDiv0s m n s
  | .div0u => Sys2Proof.Machine.execDiv0u s
  | .div1 m n => Sys2Proof.Machine.execDiv1 m n s
  | .dmulsL m n => Sys2Proof.Machine.execDmulsL m n s
  | .dmuluL m n => Sys2Proof.Machine.execDmuluL m n s
  | .dt n => Sys2Proof.Machine.execDt n s
  | .extsB m n => Sys2Proof.Machine.execExtsB m n s
  | .extsW m n => Sys2Proof.Machine.execExtsW m n s
  | .extuB m n => Sys2Proof.Machine.execExtuB m n s
  | .extuW m n => Sys2Proof.Machine.execExtuW m n s
  | .macL m n => Sys2Proof.Machine.execMacL m n s
  | .macW m n => Sys2Proof.Machine.execMacW m n s
  | .mulL m n => Sys2Proof.Machine.execMulL m n s
  | .mulsW m n => Sys2Proof.Machine.execMulsW m n s
  | .muluW m n => Sys2Proof.Machine.execMuluW m n s
  | .neg m n => Sys2Proof.Machine.execNeg m n s
  | .negc m n => Sys2Proof.Machine.execNegc m n s
  | .sub m n => Sys2Proof.Machine.execSub m n s
  | .subc m n => Sys2Proof.Machine.execSubc m n s
  | .subv m n => Sys2Proof.Machine.execSubv m n s
  -- 41_logical.md
  | .andReg m n => Sys2Proof.Machine.execAndReg m n s
  | .andImm imm => Sys2Proof.Machine.execAndImm imm s
  | .andB imm => Sys2Proof.Machine.execAndB imm s
  | .notReg m n => Sys2Proof.Machine.execNotReg m n s
  | .orReg m n => Sys2Proof.Machine.execOrReg m n s
  | .orImm imm => Sys2Proof.Machine.execOrImm imm s
  | .orB imm => Sys2Proof.Machine.execOrB imm s
  | .tasB n => Sys2Proof.Machine.execTasB n s
  | .tstReg m n => Sys2Proof.Machine.execTstReg m n s
  | .tstImm imm => Sys2Proof.Machine.execTstImm imm s
  | .tstB imm => Sys2Proof.Machine.execTstB imm s
  | .xorReg m n => Sys2Proof.Machine.execXorReg m n s
  | .xorImm imm => Sys2Proof.Machine.execXorImm imm s
  | .xorB imm => Sys2Proof.Machine.execXorB imm s
  -- 42_branch.md
  | .bf d => Sys2Proof.Machine.execBf d s
  | .bfS d => Sys2Proof.Machine.execBfS d s
  | .bra d => Sys2Proof.Machine.execBra d s
  | .braf n => Sys2Proof.Machine.execBraf n s
  | .bt d => Sys2Proof.Machine.execBt d s
  | .btS d => Sys2Proof.Machine.execBtS d s
  | .jmp n => Sys2Proof.Machine.execJmp n s
  | .rts => Sys2Proof.Machine.execRts s
  | .bsr d => Sys2Proof.Machine.execBsr d s
  | .bsrf n => Sys2Proof.Machine.execBsrf n s
  | .jsr n => Sys2Proof.Machine.execJsr n s
  -- 43_system_control.md
  | .clrmac => Sys2Proof.Machine.execClrmac s
  | .clrs => Sys2Proof.Machine.execClrs s
  | .clrt => Sys2Proof.Machine.execClrt s
  | .ldcGbr m => Sys2Proof.Machine.execLdcGbr m s
  | .ldcVbr m => Sys2Proof.Machine.execLdcVbr m s
  | .ldcSgr m => Sys2Proof.Machine.execLdcSgr m s
  | .ldcSsr m => Sys2Proof.Machine.execLdcSsr m s
  | .ldcSpc m => Sys2Proof.Machine.execLdcSpc m s
  | .ldcDbr m => Sys2Proof.Machine.execLdcDbr m s
  | .ldcBank m b => Sys2Proof.Machine.execLdcBank m b s
  | .ldcLGbr m => Sys2Proof.Machine.execLdcLGbr m s
  | .ldcLVbr m => Sys2Proof.Machine.execLdcLVbr m s
  | .ldcLSgr m => Sys2Proof.Machine.execLdcLSgr m s
  | .ldcLSsr m => Sys2Proof.Machine.execLdcLSsr m s
  | .ldcLSpc m => Sys2Proof.Machine.execLdcLSpc m s
  | .ldcLDbr m => Sys2Proof.Machine.execLdcLDbr m s
  | .ldcLBank m b => Sys2Proof.Machine.execLdcLBank m b s
  | .ldsMach m => Sys2Proof.Machine.execLdsMach m s
  | .ldsMacl m => Sys2Proof.Machine.execLdsMacl m s
  | .ldsPr m => Sys2Proof.Machine.execLdsPr m s
  | .ldsLMach m => Sys2Proof.Machine.execLdsLMach m s
  | .ldsLMacl m => Sys2Proof.Machine.execLdsLMacl m s
  | .ldsLPr m => Sys2Proof.Machine.execLdsLPr m s
  | .ldtlb => Sys2Proof.Machine.execLdtlb s
  | .nop => Sys2Proof.Machine.execNop s
  | .rte => Sys2Proof.Machine.execRte s
  | .sets => Sys2Proof.Machine.execSets s
  | .sett => Sys2Proof.Machine.execSett s
  | .sleep => Sys2Proof.Machine.execSleep s
  | .stcGbr n => Sys2Proof.Machine.execStcGbr n s
  | .stcVbr n => Sys2Proof.Machine.execStcVbr n s
  | .stcSsr n => Sys2Proof.Machine.execStcSsr n s
  | .stcSpc n => Sys2Proof.Machine.execStcSpc n s
  | .stcSgr n => Sys2Proof.Machine.execStcSgr n s
  | .stcDbr n => Sys2Proof.Machine.execStcDbr n s
  | .stcBank b n => Sys2Proof.Machine.execStcBank b n s
  | .stcLGbr n => Sys2Proof.Machine.execStcLGbr n s
  | .stcLVbr n => Sys2Proof.Machine.execStcLVbr n s
  | .stcLSsr n => Sys2Proof.Machine.execStcLSsr n s
  | .stcLSpc n => Sys2Proof.Machine.execStcLSpc n s
  | .stcLSgr n => Sys2Proof.Machine.execStcLSgr n s
  | .stcLDbr n => Sys2Proof.Machine.execStcLDbr n s
  | .stcLBank b n => Sys2Proof.Machine.execStcLBank b n s
  | .stsMach n => Sys2Proof.Machine.execStsMach n s
  | .stsMacl n => Sys2Proof.Machine.execStsMacl n s
  | .stsPr n => Sys2Proof.Machine.execStsPr n s
  | .stsLMach n => Sys2Proof.Machine.execStsLMach n s
  | .stsLMacl n => Sys2Proof.Machine.execStsLMacl n s
  | .stsLPr n => Sys2Proof.Machine.execStsLPr n s
  | .trapa imm => Sys2Proof.Machine.execTrapa imm s
  -- 44_data_transfer.md
  | .mov m n => Sys2Proof.Machine.execMov m n s
  | .movBStore m n => Sys2Proof.Machine.execMovBStore m n s
  | .movWStore m n => Sys2Proof.Machine.execMovWStore m n s
  | .movLStore m n => Sys2Proof.Machine.execMovLStore m n s
  | .movBLoad m n => Sys2Proof.Machine.execMovBLoad m n s
  | .movWLoad m n => Sys2Proof.Machine.execMovWLoad m n s
  | .movLLoad m n => Sys2Proof.Machine.execMovLLoad m n s
  | .movBStoreDec m n => Sys2Proof.Machine.execMovBStoreDec m n s
  | .movWStoreDec m n => Sys2Proof.Machine.execMovWStoreDec m n s
  | .movLStoreDec m n => Sys2Proof.Machine.execMovLStoreDec m n s
  | .movBLoadInc m n => Sys2Proof.Machine.execMovBLoadInc m n s
  | .movWLoadInc m n => Sys2Proof.Machine.execMovWLoadInc m n s
  | .movLLoadInc m n => Sys2Proof.Machine.execMovLLoadInc m n s
  | .movBStoreIdx m n => Sys2Proof.Machine.execMovBStoreIdx m n s
  | .movWStoreIdx m n => Sys2Proof.Machine.execMovWStoreIdx m n s
  | .movLStoreIdx m n => Sys2Proof.Machine.execMovLStoreIdx m n s
  | .movBLoadIdx m n => Sys2Proof.Machine.execMovBLoadIdx m n s
  | .movWLoadIdx m n => Sys2Proof.Machine.execMovWLoadIdx m n s
  | .movLLoadIdx m n => Sys2Proof.Machine.execMovLLoadIdx m n s
  | .movImm imm n => Sys2Proof.Machine.execMovImm imm n s
  | .movWLoadPc d n => Sys2Proof.Machine.execMovWLoadPc d n s
  | .movLLoadPc d n => Sys2Proof.Machine.execMovLLoadPc d n s
  | .movBLoadGbr d => Sys2Proof.Machine.execMovBLoadGbr d s
  | .movWLoadGbr d => Sys2Proof.Machine.execMovWLoadGbr d s
  | .movLLoadGbr d => Sys2Proof.Machine.execMovLLoadGbr d s
  | .movBStoreGbr d => Sys2Proof.Machine.execMovBStoreGbr d s
  | .movWStoreGbr d => Sys2Proof.Machine.execMovWStoreGbr d s
  | .movLStoreGbr d => Sys2Proof.Machine.execMovLStoreGbr d s
  | .movBStoreDisp d n => Sys2Proof.Machine.execMovBStoreDisp d n s
  | .movWStoreDisp d n => Sys2Proof.Machine.execMovWStoreDisp d n s
  | .movLStoreDisp m d n => Sys2Proof.Machine.execMovLStoreDisp m d n s
  | .movBLoadDisp d m => Sys2Proof.Machine.execMovBLoadDisp d m s
  | .movWLoadDisp d m => Sys2Proof.Machine.execMovWLoadDisp d m s
  | .movLLoadDisp d m n => Sys2Proof.Machine.execMovLLoadDisp d m n s
  | .mova d => Sys2Proof.Machine.execMova d s
  | .movt n => Sys2Proof.Machine.execMovt n s
  | .swapB m n => Sys2Proof.Machine.execSwapB m n s
  | .swapW m n => Sys2Proof.Machine.execSwapW m n s
  | .xtrct m n => Sys2Proof.Machine.execXtrct m n s
  -- 45_cache_sync.md
  | .icbi n => Sys2Proof.Machine.execIcbi n s
  | .movcaL n => Sys2Proof.Machine.execMovcaL n s
  | .movcoL n => Sys2Proof.Machine.execMovcoL n s
  | .movliL m => Sys2Proof.Machine.execMovliL m s
  | .movuaL m => Sys2Proof.Machine.execMovuaL m s
  | .movuaLInc m => Sys2Proof.Machine.execMovuaLInc m s
  | .ocbi n => Sys2Proof.Machine.execOcbi n s
  | .ocbp n => Sys2Proof.Machine.execOcbp n s
  | .ocbwb n => Sys2Proof.Machine.execOcbwb n s
  | .pref n => Sys2Proof.Machine.execPref n s
  | .prefi n => Sys2Proof.Machine.execPrefi n s
  | .synco => Sys2Proof.Machine.execSynco s
  -- 46_shift.md
  | .rotcl n => Sys2Proof.Machine.execRotcl n s
  | .rotcr n => Sys2Proof.Machine.execRotcr n s
  | .rotl n => Sys2Proof.Machine.execRotl n s
  | .rotr n => Sys2Proof.Machine.execRotr n s
  | .shad m n => Sys2Proof.Machine.execShad m n s
  | .shal n => Sys2Proof.Machine.execShal n s
  | .shar n => Sys2Proof.Machine.execShar n s
  | .shld m n => Sys2Proof.Machine.execShld m n s
  | .shll n => Sys2Proof.Machine.execShll n s
  | .shll2 n => Sys2Proof.Machine.execShll2 n s
  | .shll8 n => Sys2Proof.Machine.execShll8 n s
  | .shll16 n => Sys2Proof.Machine.execShll16 n s
  | .shlr n => Sys2Proof.Machine.execShlr n s
  | .shlr2 n => Sys2Proof.Machine.execShlr2 n s
  | .shlr8 n => Sys2Proof.Machine.execShlr8 n s
  | .shlr16 n => Sys2Proof.Machine.execShlr16 n s
  -- 47_dsp_control.md
  | .clrdmxy => Sys2Proof.Machine.execClrdmxy s
  | .ldcSr m => Sys2Proof.Machine.execLdcSr m s
  | .ldcMod m => Sys2Proof.Machine.execLdcMod m s
  | .ldcRe m => Sys2Proof.Machine.execLdcRe m s
  | .ldcRs m => Sys2Proof.Machine.execLdcRs m s
  | .ldcLSr m => Sys2Proof.Machine.execLdcLSr m s
  | .ldcLMod m => Sys2Proof.Machine.execLdcLMod m s
  | .ldcLRe m => Sys2Proof.Machine.execLdcLRe m s
  | .ldcLRs m => Sys2Proof.Machine.execLdcLRs m s
  | .ldrc m => Sys2Proof.Machine.execLdrc m s
  | .ldrcImm imm => Sys2Proof.Machine.execLdrcImm imm s
  | .ldre d => Sys2Proof.Machine.execLdre d s
  | .ldsDsr m => Sys2Proof.Machine.execLdsDsr m s
  | .ldsA0 m => Sys2Proof.Machine.execLdsA0 m s
  | .ldsX0 m => Sys2Proof.Machine.execLdsX0 m s
  | .ldsX1 m => Sys2Proof.Machine.execLdsX1 m s
  | .ldsY0 m => Sys2Proof.Machine.execLdsY0 m s
  | .ldsY1 m => Sys2Proof.Machine.execLdsY1 m s
  | .ldsLDsr m => Sys2Proof.Machine.execLdsLDsr m s
  | .ldsLA0 m => Sys2Proof.Machine.execLdsLA0 m s
  | .ldsLX0 m => Sys2Proof.Machine.execLdsLX0 m s
  | .ldsLX1 m => Sys2Proof.Machine.execLdsLX1 m s
  | .ldsLY0 m => Sys2Proof.Machine.execLdsLY0 m s
  | .ldsLY1 m => Sys2Proof.Machine.execLdsLY1 m s
  | .ldrs d => Sys2Proof.Machine.execLdrs d s
  | .setdmx => Sys2Proof.Machine.execSetdmx s
  | .setdmy => Sys2Proof.Machine.execSetdmy s
  | .setrc m => Sys2Proof.Machine.execSetrc m s
  | .setrcImm imm => Sys2Proof.Machine.execSetrcImm imm s
  | .stcSr n => Sys2Proof.Machine.execStcSr n s
  | .stcMod n => Sys2Proof.Machine.execStcMod n s
  | .stcRe n => Sys2Proof.Machine.execStcRe n s
  | .stcRs n => Sys2Proof.Machine.execStcRs n s
  | .stcLSr n => Sys2Proof.Machine.execStcLSr n s
  | .stcLMod n => Sys2Proof.Machine.execStcLMod n s
  | .stcLRe n => Sys2Proof.Machine.execStcLRe n s
  | .stcLRs n => Sys2Proof.Machine.execStcLRs n s
  | .stsDsr n => Sys2Proof.Machine.execStsDsr n s
  | .stsA0 n => Sys2Proof.Machine.execStsA0 n s
  | .stsX0 n => Sys2Proof.Machine.execStsX0 n s
  | .stsX1 n => Sys2Proof.Machine.execStsX1 n s
  | .stsY0 n => Sys2Proof.Machine.execStsY0 n s
  | .stsY1 n => Sys2Proof.Machine.execStsY1 n s
  | .stsLDsr n => Sys2Proof.Machine.execStsLDsr n s
  | .stsLA0 n => Sys2Proof.Machine.execStsLA0 n s
  | .stsLX0 n => Sys2Proof.Machine.execStsLX0 n s
  | .stsLX1 n => Sys2Proof.Machine.execStsLX1 n s
  | .stsLY0 n => Sys2Proof.Machine.execStsLY0 n s
  | .stsLY1 n => Sys2Proof.Machine.execStsLY1 n s

end Sys2Proof.Machine
end

