-- ==== Sys2Proof/Machine/Execute.lean ====
section
/-! DEFINITION. The parts of a step in their order (60_exceptions.md R450): the repeat counter, interrupt sampling, sleep,
fetch, decode, and execution. -/

namespace Sys2Proof.Machine

/-- Decode a word and execute it (R450 (7) to (9)). An undefined word is an illegal instruction (30_encoding.md R121); a
word of the DSP unit's space is refused, in a delay slot as well (R122). -/
def runWord (w : Half) (s : State) : Outcome :=
  match decode w with
  | .error .dspSpace => .refused (.dspInstructionSpace w)
  | .error .undefinedWord => raiseIllegal s
  | .error .tooShort => raiseIllegal s
  | .ok i => if slotExtra s w then raise .slotIllegal s else exec i s

/-- Fetch, decode and execute the instruction at pc (R450 (6) to (9)). -/
def runInstr (s : State) : Outcome :=
  match fetch s with
  | .error x => stopWith s x
  | .ok w => runWord w (s.hostTaken s.pc)

/-- A step without an interrupt to take: nothing while asleep, else an instruction (R450 (5), R474). -/
def runUnlessAsleep (s : State) : Outcome := if s.asleep then .next s else runInstr s

/-- A step from an instruction boundary (R450 (2) to (9)): none, so the same state, when the run has ended; else the oracle
answers once (R463, R476; log 25). -/
def runBoundary (s : State) : Outcome :=
  if s.runEnded then .next s else
  if s.rc ≠ 0 then .refused .repeatLoopArmed else
  match s.irqNow with
  | none => runUnlessAsleep s.irqTaken
  | some q =>
    if s.asleep && s.bl then .refused .interruptDuringSleepWithBl
    else if s.accepts q then .next (s.irqTaken.enterInterrupt q)
    else runUnlessAsleep s.irqTaken

end Sys2Proof.Machine
end

