-- ==== Sys2Proof/Machine/Launch.lean ====
section
/-! DEFINITION. The launch: what the host supplies before the first step (60_exceptions.md R475). It makes no move during a
run; its answers to device accesses and the oracle's answers are supplied here. -/

namespace Sys2Proof.Machine

/-- The bytes of a launch image that lie in a ram or rom region, in memory's canonical form (R475, 20_memory.md R82). -/
def launchImage (regions : List Config.Region) : List Host.Cell → Memory
  | [] => []
  | c :: cs =>
    let a := BitVec.ofNat 32 c.1
    if regionKind regions a = some .ram ∨ regionKind regions a = some .rom then
      assocSet (launchImage regions cs) a.toNat c.2
    else launchImage regions cs

/-- The machine as a launch leaves it: the registers of `regs`, and the parameters, the image, the oracle's answers and the
host's answers that the host supplies (R475). Caches, TLB and `dirty_code` are clean, nothing is pending, LDST is clear
and the machine is awake; SR.RC is 0 and the MMU disabled (the premises of R475). -/
def State.launch (regs : State) (p : Config.Params) (image : List Host.Cell) (irq : List (Option IrqRequest))
    (host : List HostAnswer) : State :=
  { regs with
    pending := none
    sr := regs.sr &&& 0xF000FFFF#32
    mmucr := regs.mmucr &&& 0xFFFFFFFE#32
    tlb := []
    ldst := false
    asleep := false
    mem := launchImage p.memMap image
    dirtyCode := []
    params := p
    irq := irq
    host := host
    freeCount := 0 }

end Sys2Proof.Machine
end

