-- ==== Sys2Proof/Machine/Step.lean ====
section
/-! DEFINITION. One step of the machine (60_exceptions.md R450). A delayed branch and its slot instruction are two steps,
between which State holds the branch that is pending (10_state.md R58; log 7). -/

namespace Sys2Proof.Machine

/-- One step: the slot instruction of a pending branch, of which no interrupt is sampled (42_branch.md R200), or a step
from an instruction boundary. -/
def step (s : State) : Host.Outcome State Fault Refusal :=
  if s.pending.isSome then runInstr s else runBoundary s

/-- `s` with an instruction word stored where the next step fetches, and memory mapped there where there is none. It stands
for the launch, which maps code and loads a program from outside the machine (60_exceptions.md R475,
70_reset_and_hazards.md R500; log 30); a row of the opcode table has 16 bits. -/
def State.withFetchWord (s : State) (_nbits w : Nat) : State := s.mapCode.placeWord (BitVec.ofNat 16 w)

end Sys2Proof.Machine
end

