-- ==== Sys2Proof/Safety.lean ====
section
/-! DEFINITION. The terms claims are made in: which bytes can be read and stored to, what an instruction leaves as it was,
the invariant of the machine, a step as the spec counts them, and when a run has ended. -/

namespace Sys2Proof.Machine

/-! ## Memory as claims see it -/

/-- The byte memory holds at `a`, the model's read of one byte (`heldByte` faults where it is none). -/
def State.holds (s : State) (a : Word) : Option Byte := assocGet s.mem a.toNat

/-- The mode may access `a`: privileged, or `a` outside the privileged area (20_memory.md R83). -/
def State.mayAccess (s : State) (a : Word) : Bool := s.md || !a.msb

/-- The byte at `a` is in a ram or rom region and no register is mapped there (20_memory.md R82, R84). -/
def State.readableAt (s : State) (a : Word) : Bool :=
  !isControl a && (regionKind s.params.memMap a == some .ram || regionKind s.params.memMap a == some .rom)

/-- The byte at `a` is in a ram region and no register is mapped there (20_memory.md R82, R84). -/
def State.writableAt (s : State) (a : Word) : Bool :=
  !isControl a && regionKind s.params.memMap a == some .ram

/-- A load of as many bytes as `bs` has, at `a`, is aligned and allowed, and finds `bs`. -/
def Loads (s : State) (a : Word) (bs : List Byte) : Prop :=
  a.toNat % bs.length = 0 ∧ s.mayAccess a = true ∧
    ∀ k < bs.length, s.readableAt (a + BitVec.ofNat 32 k) = true ∧ s.holds (a + BitVec.ofNat 32 k) = bs[k]?

/-- A store of `size` bytes at `a` is aligned and allowed. -/
def Storable (s : State) (a : Word) (size : Nat) : Prop :=
  a.toNat % size = 0 ∧ s.mayAccess a = true ∧ ∀ k < size, s.writableAt (a + BitVec.ofNat 32 k) = true

/-- Each of the `size` bytes from `a` on is in a device region or can be read (20_memory.md R82). -/
def HostReadable (s : State) (a : Word) (size : Nat) : Prop :=
  ∀ k < size, (s.isDevice (a + BitVec.ofNat 32 k) || s.readableAt (a + BitVec.ofNat 32 k)) = true

/-- Each of the `size` bytes from `a` on is in a device region or can be stored to (20_memory.md R82). -/
def HostWritable (s : State) (a : Word) (size : Nat) : Prop :=
  ∀ k < size, (s.isDevice (a + BitVec.ofNat 32 k) || s.writableAt (a + BitVec.ofNat 32 k)) = true

/-- The host answers a read of `size` bytes at `a`, in a device region, with `v` (60_exceptions.md R475). -/
def AnswersRead (s : State) (a : Word) (size : Nat) (v : Word) : Prop :=
  a.toNat % size = 0 ∧ s.mayAccess a = true ∧ s.isDevice a = true ∧ HostReadable s a size ∧
    s.host.head? = some (.read a size v)

/-- The host takes a store of `size` bytes at `a`, in a device region (60_exceptions.md R475). -/
def AnswersWrite (s : State) (a : Word) (size : Nat) : Prop :=
  a.toNat % size = 0 ∧ s.mayAccess a = true ∧ s.isDevice a = true ∧ HostWritable s a size ∧
    s.host.head? = some (.written a size)

/-- The memory of `t` is that of `s` but for the bytes `bs` stored from `a` on. -/
def StoredAt (s t : State) (a : Word) (bs : List Byte) : Prop :=
  ∀ k : Word, t.holds k = if (k - a).toNat < bs.length then bs[(k - a).toNat]? else s.holds k

/-- Every byte of the memory of `t` reads as in `s`. -/
def SameMemory (s t : State) : Prop := ∀ k : Word, t.holds k = s.holds k

/-- `dirty_code` of `t` is that of `s` with the block of `a` (20_memory.md R89). -/
def DirtiedAt (s t : State) (a : Word) : Prop :=
  ∀ b : Nat, b ∈ t.dirtyCode ↔ b = (blockOf a).toNat ∨ b ∈ s.dirtyCode

/-! ## Frames -/

/-- The special registers, accumulators, exception registers, hidden flags and parameters of `t` are those of `s`: every
field but the general registers, the pc, the pending branch, SR, memory and `dirty_code`. -/
structure SameRest (s t : State) : Prop where
  gbr : t.gbr = s.gbr
  vbr : t.vbr = s.vbr
  ssr : t.ssr = s.ssr
  spc : t.spc = s.spc
  sgr : t.sgr = s.sgr
  dbr : t.dbr = s.dbr
  mach : t.mach = s.mach
  macl : t.macl = s.macl
  pr : t.pr = s.pr
  tra : t.tra = s.tra
  expevt : t.expevt = s.expevt
  intevt : t.intevt = s.intevt
  pteh : t.pteh = s.pteh
  ptel : t.ptel = s.ptel
  mmucr : t.mmucr = s.mmucr
  tlb : t.tlb = s.tlb
  mod : t.mod = s.mod
  rs : t.rs = s.rs
  re : t.re = s.re
  dsr : t.dsr = s.dsr
  a0 : t.a0 = s.a0
  a0g : t.a0g = s.a0g
  x0 : t.x0 = s.x0
  x1 : t.x1 = s.x1
  y0 : t.y0 = s.y0
  y1 : t.y1 = s.y1
  ldst : t.ldst = s.ldst
  asleep : t.asleep = s.asleep
  params : t.params = s.params
  irq : t.irq = s.irq
  host : t.host = s.host
  freeCount : t.freeCount = s.freeCount

/-- Register contents `regs`, but `v` in register `n`. -/
def withReg (regs : Reg → Word) (n : Reg) (v : Word) : Reg → Word := fun i => if i = n then v else regs i

/-- The general registers of `t`: the current bank's sixteen as `regs` says, the other bank's as in `s`. -/
def Registers (s : State) (regs : Reg → Word) (t : State) : Prop :=
  (∀ i : Reg, t.r i = regs i) ∧ (∀ b : BankReg, t.bankR b = s.bankR b)

/-- The physical general registers of both banks are the same in `t` as in `s`. -/
def SameBanks (s t : State) : Prop := t.bank0 = s.bank0 ∧ t.bank1 = s.bank1 ∧ t.high = s.high

/-- The pc of `t` is that of the instruction after `s`'s: pc + 2, or from a delay slot the branch's target, and no branch
is pending (10_state.md R24, 42_branch.md R200). -/
def Advanced (s t : State) : Prop :=
  t.pc = (match s.pending with | none => s.pc + 2 | some p => p.target) ∧ t.pending = none

/-- `t` follows an instruction at `s` that is no branch and stores nothing: the current bank's registers are `regs`, SR is
`sr`, every special register is as in `u`, and all of memory and `dirty_code` are as in `s`. -/
structure Leaves (s : State) (regs : Reg → Word) (sr : Word) (u t : State) : Prop where
  registers : Registers s regs t
  status : t.sr = sr
  rest : SameRest u t
  memory : SameMemory s t
  dirty : t.dirtyCode = s.dirtyCode
  next : Advanced s t

/-- `t` follows an instruction at `s` that is no branch and stores `bs` at `a`: as `Leaves`, but for those bytes and the
block of `a` in `dirty_code`. -/
structure LeavesStored (s : State) (regs : Reg → Word) (sr : Word) (u : State) (a : Word) (bs : List Byte) (t : State) :
    Prop where
  registers : Registers s regs t
  status : t.sr = sr
  rest : SameRest u t
  memory : StoredAt s t a bs
  dirty : DirtiedAt s t a
  next : Advanced s t

/-- Everything but the pc and the pending branch is the same in `t` as in `s`. -/
structure SameButPc (s t : State) : Prop where
  banks : SameBanks s t
  status : t.sr = s.sr
  rest : SameRest s t
  memory : SameMemory s t
  dirty : t.dirtyCode = s.dirtyCode

/-- `exec i s` answers a next state, and `p` holds of it. -/
def Completes (i : Instr) (s : State) (p : State → Prop) : Prop := ∃ t, exec i s = .next t ∧ p t

/-- `t` is the entry of an exception or interrupt at `s`: what the sequence of 60_exceptions.md R451 leaves, with `code`
in EXPEVT, `restart` in SPC and the pc at VBR + `offset`. -/
structure Entered (s : State) (code restart offset : Word) (t : State) : Prop where
  ssr : t.ssr = s.sr
  spc : t.spc = restart
  sgr : t.sgr = s.r 15
  sr : t.sr = s.sr ||| 0x70000000#32
  expevt : t.expevt = code
  ldst : t.ldst = false
  asleep : t.asleep = false
  pc : t.pc = s.vbr + offset
  pending : t.pending = none
  banks : SameBanks s t
  rest : SameRest { s with ssr := t.ssr, spc := t.spc, sgr := t.sgr, expevt := t.expevt, ldst := false, asleep := false } t
  memory : SameMemory s t
  dirty : t.dirtyCode = s.dirtyCode

/-! ## SR as claims write it -/

/-- SR with T as given and the rest kept (10_state.md R26). -/
def srT (sr : Word) (t : Bool) : Word := (sr &&& 0xFFFFFFFE#32) ||| (if t then 0x00000001#32 else 0#32)

/-- SR with Q, M and T as given and the rest kept (10_state.md R26, R28). -/
def srQMT (sr : Word) (q m t : Bool) : Word :=
  (sr &&& 0xFFFFFCFE#32) ||| (if q then 0x00000100#32 else 0#32) ||| (if m then 0x00000200#32 else 0#32) |||
    (if t then 0x00000001#32 else 0#32)

/-! ## Classes of instructions (30_encoding.md R123, R124) -/

/-- The 27 privileged rows (R123 (a), 60_exceptions.md R470). -/
def needsPrivilege : Instr → Bool
  | .ldcVbr _ | .ldcSgr _ | .ldcSsr _ | .ldcSpc _ | .ldcDbr _ | .ldcBank _ _ => true
  | .ldcLVbr _ | .ldcLSgr _ | .ldcLSsr _ | .ldcLSpc _ | .ldcLDbr _ | .ldcLBank _ _ => true
  | .stcVbr _ | .stcSgr _ | .stcSsr _ | .stcSpc _ | .stcDbr _ | .stcBank _ _ => true
  | .stcLVbr _ | .stcLSgr _ | .stcLSsr _ | .stcLSpc _ | .stcLDbr _ | .stcLBank _ _ => true
  | .ldtlb | .rte | .sleep => true
  | _ => false

/-- The 45 rows that SR.DSP enables (R123 (b), 47_dsp_control.md R390). -/
def needsDsp : Instr → Bool
  | .clrdmxy | .setdmx | .setdmy => true
  | .ldcMod _ | .ldcRe _ | .ldcRs _ | .ldcLMod _ | .ldcLRe _ | .ldcLRs _ => true
  | .stcMod _ | .stcRe _ | .stcRs _ | .stcLMod _ | .stcLRe _ | .stcLRs _ => true
  | .ldrc _ | .ldrcImm _ | .setrc _ | .setrcImm _ | .ldre _ | .ldrs _ => true
  | .ldsDsr _ | .ldsA0 _ | .ldsX0 _ | .ldsX1 _ | .ldsY0 _ | .ldsY1 _ => true
  | .ldsLDsr _ | .ldsLA0 _ | .ldsLX0 _ | .ldsLX1 _ | .ldsLY0 _ | .ldsLY1 _ => true
  | .stsDsr _ | .stsA0 _ | .stsX0 _ | .stsX1 _ | .stsY0 _ | .stsY1 _ => true
  | .stsLDsr _ | .stsLA0 _ | .stsLX0 _ | .stsLX1 _ | .stsLY0 _ | .stsLY1 _ => true
  | _ => false

/-- The four SR forms, privileged unless SR.DSP = 1 (R123 (c)). -/
def isSrForm : Instr → Bool
  | .ldcSr _ | .ldcLSr _ | .stcSr _ | .stcLSr _ => true
  | _ => false

/-- The mode condition of an instruction holds (R123). -/
def modeAllows (i : Instr) (s : State) : Bool :=
  (!needsPrivilege i || s.md) && (!needsDsp i || s.dsp) && (!isSrForm i || s.md || s.dsp)

/-- The instructions that are slot illegal in every mode (R124 (1), (2), (3), (6)). -/
def slotIllegalAlways : Instr → Bool
  | .bf _ | .bfS _ | .bt _ | .btS _ | .bra _ | .braf _ | .bsr _ | .bsrf _ | .jmp _ | .jsr _ | .rts | .rte => true
  | .trapa _ | .movWLoadPc _ _ | .movLLoadPc _ _ | .mova _ | .ldre _ | .ldrs _ => true
  | .ldcSr _ | .ldcLSr _ | .icbi _ | .prefi _ => true
  | _ => false

/-- The instructions that can write S: SETS, CLRS and the whole-SR writes (10_state.md R27). -/
def writesS : Instr → Bool
  | .sets | .clrs | .ldcSr _ | .ldcLSr _ | .rte => true
  | _ => false

/-- The instructions that can write T (10_state.md R26). -/
def writesT : Instr → Bool
  | .addc _ _ | .addv _ _ | .subc _ _ | .negc _ _ | .subv _ _ => true
  | .cmpEq _ _ | .cmpGe _ _ | .cmpGt _ _ | .cmpHi _ _ | .cmpHs _ _ | .cmpPl _ | .cmpPz _ | .cmpStr _ _ | .cmpEqImm _ => true
  | .div0s _ _ | .div0u | .div1 _ _ | .dt _ => true
  | .tstReg _ _ | .tstImm _ | .tstB _ | .tasB _ => true
  | .rotcl _ | .rotcr _ | .rotl _ | .rotr _ | .shal _ | .shar _ | .shll _ | .shlr _ => true
  | .sett | .clrt | .movcoL _ | .ldcSr _ | .ldcLSr _ | .rte => true
  | _ => false

/-! ## The accesses of an instruction -/

/-- The first access to data of an instruction: the exception its failing raises, its size and its address; `none` for one
that makes no access, and for MOVUA.L, which has no alignment (20_memory.md R74, R76, 60_exceptions.md R456; MOVCO.L makes
one only with LDST set, 45_cache_sync.md R353). -/
def firstAccess (i : Instr) (s : State) : Option (Exc × Nat × Word) :=
  match i with
  | .movBLoad m _ | .movBLoadInc m _ =>
    some (.dataAddressErrorRead, 1, s.r m)
  | .movBLoadIdx m _ =>
    some (.dataAddressErrorRead, 1, s.r m + s.r 0)
  | .movBLoadGbr d =>
    some (.dataAddressErrorRead, 1, s.gbr + d.setWidth 32)
  | .movBLoadDisp d m =>
    some (.dataAddressErrorRead, 1, s.r m + d.setWidth 32)
  | .movBStore _ n =>
    some (.dataAddressErrorWrite, 1, s.r n)
  | .movBStoreDec _ n =>
    some (.dataAddressErrorWrite, 1, s.r n - 1#32)
  | .movBStoreIdx _ n =>
    some (.dataAddressErrorWrite, 1, s.r n + s.r 0)
  | .movBStoreGbr d =>
    some (.dataAddressErrorWrite, 1, s.gbr + d.setWidth 32)
  | .movBStoreDisp d n =>
    some (.dataAddressErrorWrite, 1, s.r n + d.setWidth 32)
  | .movWLoad m _ | .movWLoadInc m _ =>
    some (.dataAddressErrorRead, 2, s.r m)
  | .movWLoadIdx m _ =>
    some (.dataAddressErrorRead, 2, s.r m + s.r 0)
  | .movWLoadGbr d =>
    some (.dataAddressErrorRead, 2, s.gbr + 2#32 * d.setWidth 32)
  | .movWLoadDisp d m =>
    some (.dataAddressErrorRead, 2, s.r m + 2#32 * d.setWidth 32)
  | .movWStore _ n =>
    some (.dataAddressErrorWrite, 2, s.r n)
  | .movWStoreDec _ n =>
    some (.dataAddressErrorWrite, 2, s.r n - 2#32)
  | .movWStoreIdx _ n =>
    some (.dataAddressErrorWrite, 2, s.r n + s.r 0)
  | .movWStoreGbr d =>
    some (.dataAddressErrorWrite, 2, s.gbr + 2#32 * d.setWidth 32)
  | .movWStoreDisp d n =>
    some (.dataAddressErrorWrite, 2, s.r n + 2#32 * d.setWidth 32)
  | .movLLoad m _ | .movLLoadInc m _ =>
    some (.dataAddressErrorRead, 4, s.r m)
  | .movLLoadIdx m _ =>
    some (.dataAddressErrorRead, 4, s.r m + s.r 0)
  | .movLLoadGbr d =>
    some (.dataAddressErrorRead, 4, s.gbr + 4#32 * d.setWidth 32)
  | .movLLoadDisp d m _ =>
    some (.dataAddressErrorRead, 4, s.r m + 4#32 * d.setWidth 32)
  | .movLStore _ n =>
    some (.dataAddressErrorWrite, 4, s.r n)
  | .movLStoreDec _ n =>
    some (.dataAddressErrorWrite, 4, s.r n - 4#32)
  | .movLStoreIdx _ n =>
    some (.dataAddressErrorWrite, 4, s.r n + s.r 0)
  | .movLStoreGbr d =>
    some (.dataAddressErrorWrite, 4, s.gbr + 4#32 * d.setWidth 32)
  | .movLStoreDisp _ d n =>
    some (.dataAddressErrorWrite, 4, s.r n + 4#32 * d.setWidth 32)
  | .movWLoadPc d _ =>
    some (.dataAddressErrorRead, 2, s.pc + 4#32 + 2#32 * d.setWidth 32)
  | .movLLoadPc d _ =>
    some (.dataAddressErrorRead, 4, (s.pc &&& 0xFFFFFFFC#32) + 4#32 + 4#32 * d.setWidth 32)
  | .andB _ | .orB _ | .xorB _ | .tstB _ =>
    some (.dataAddressErrorRead, 1, s.gbr + s.r 0)
  | .tasB n =>
    some (.dataAddressErrorRead, 1, s.r n)
  | .macW _ n =>
    some (.dataAddressErrorRead, 2, s.r n)
  | .macL _ n =>
    some (.dataAddressErrorRead, 4, s.r n)
  | .movliL m =>
    some (.dataAddressErrorRead, 4, s.r m)
  | .ldcLGbr m | .ldcLVbr m | .ldcLSgr m | .ldcLSsr m | .ldcLSpc m | .ldcLDbr m | .ldcLSr m =>
    some (.dataAddressErrorRead, 4, s.r m)
  | .ldcLMod m | .ldcLRe m | .ldcLRs m | .ldsLMach m | .ldsLMacl m | .ldsLPr m =>
    some (.dataAddressErrorRead, 4, s.r m)
  | .ldsLDsr m | .ldsLA0 m | .ldsLX0 m | .ldsLX1 m | .ldsLY0 m | .ldsLY1 m =>
    some (.dataAddressErrorRead, 4, s.r m)
  | .ldcLBank m _ =>
    some (.dataAddressErrorRead, 4, s.r m)
  | .stcLGbr n | .stcLVbr n | .stcLSgr n | .stcLSsr n | .stcLSpc n | .stcLDbr n | .stcLSr n =>
    some (.dataAddressErrorWrite, 4, s.r n - 4#32)
  | .stcLMod n | .stcLRe n | .stcLRs n | .stsLMach n | .stsLMacl n | .stsLPr n =>
    some (.dataAddressErrorWrite, 4, s.r n - 4#32)
  | .stsLDsr n | .stsLA0 n | .stsLX0 n | .stsLX1 n | .stsLY0 n | .stsLY1 n =>
    some (.dataAddressErrorWrite, 4, s.r n - 4#32)
  | .stcLBank _ n =>
    some (.dataAddressErrorWrite, 4, s.r n - 4#32)
  | .movcaL n =>
    some (.dataAddressErrorWrite, 4, s.r n)
  | .movcoL n => if s.ldst then some (.dataAddressErrorWrite, 4, s.r n) else none
  | _ => none

/-- Neither the mode nor a delay slot keeps the instruction from executing (30_encoding.md R123, R124). -/
def mayExecute (i : Instr) (s : State) : Prop := modeAllows i s = true ∧ (s.pending = none ∨ slotIllegalAlways i = false)

/-! ## The invariant of the machine -/

/-- What holds at reset and is kept by every step: canonical forms, the reserved bits that read 0, the fields a register
has no other bits than, the guard bits of A0, and the shape of a pending branch. -/
structure State.Inv (s : State) : Prop where
  /-- Memory is in its canonical form. -/
  memory : s.mem.wf = true
  /-- `dirty_code` is a strictly rising list of block addresses (20_memory.md R89). -/
  dirty : s.dirtyCode.Pairwise (· < ·) ∧ ∀ b ∈ s.dirtyCode, b % 32 = 0 ∧ b < 2 ^ 32
  /-- TLB entries are listed by strictly rising number. -/
  tlb : assocSorted s.tlb = true
  /-- SR bits 31 and 15 to 13 read 0 (10_state.md R37). -/
  srReserved : s.sr &&& ~~~srMask = 0
  /-- DSR bits 31 to 4 are 0 (10_state.md R51). -/
  dsr : s.dsr &&& ~~~0x0000000F#32 = 0
  /-- TRA bits 31 to 10 and 1 to 0 are 0 (10_state.md R46). -/
  tra : s.tra &&& ~~~0x000003FC#32 = 0
  /-- A0G is the sign of A0 (10_state.md R52). -/
  guardBits : s.a0g = if s.a0.msb then 0xFF#8 else 0x00#8
  /-- The MMU is disabled (20_memory.md R85). -/
  mmuOff : s.mmucr.getLsbD 0 = false
  /-- The slot of a pending branch is the instruction after it (42_branch.md R200). -/
  slot : ∀ p, s.pending = some p → s.pc = p.branch + 2 ∧ p.branch.getLsbD 0 = false
  /-- The machine sleeps at instruction boundaries (10_state.md R57). -/
  sleep : s.asleep = true → s.pending = none

/-! ## Steps and runs as the spec counts them -/

/-- One step of the spec, from an instruction boundary to the next: a delayed branch and its slot instruction are one
(42_branch.md R200; log 7). -/
def boundaryStep (s : State) : Outcome :=
  match step s with
  | .next t => if t.pending.isSome then step t else .next t
  | .fault f => .fault f
  | .refused r => .refused r

/-- A run has ended at `s`: at an instruction boundary, at an address of `END`, or asleep with no interrupt to come
(60_exceptions.md R476; log 25). -/
def RunEnded (s : State) : Prop :=
  s.pending = none ∧ (s.pc ∈ s.params.ends ∨ (s.asleep = true ∧ ∀ q ∈ s.irq, q = none))

/-! ## The launch premises (60_exceptions.md R475) -/

/-- The premises a launch names (R475). That no fault is recorded, that no other bus master writes memory and that the
oracle is as given hold by the shape of the model: a fault ends a run, and State is one CPU's. -/
structure LaunchPremises (s : State) : Prop where
  /-- "MMU disabled" (20_memory.md R85). -/
  mmuOff : s.mmucr.getLsbD 0 = false
  /-- "Caches carry no stale data": `dirty_code` is empty. -/
  clean : s.dirtyCode = []
  /-- "Not asleep". -/
  awake : s.asleep = false
  /-- "LDST = 0". -/
  unlinked : s.ldst = false
  /-- "SR.RC = 0". -/
  noRepeat : s.rc = 0
  /-- No delayed branch has executed (10_state.md R58). -/
  boundary : s.pending = none
  /-- The image lies in ram and rom regions (R475). -/
  image : ∀ c ∈ s.mem, ∃ k, regionKind s.params.memMap (BitVec.ofNat 32 c.1) = some k ∧ k ≠ .device
  /-- The addresses of `END` are even (R476). -/
  ends : ∀ a ∈ s.params.ends, a.getLsbD 0 = false

end Sys2Proof.Machine
end

