-- ==== Sys2Proof/WellFormed.lean ====
section
/-! DEFINITION. Which instructions are well formed. The operand types already hold every width of 30_encoding.md R112 to
R118, where every value of a field is legal; what is left is the range of a repeat count. -/

namespace Sys2Proof

/-- Well-formed: the immediate of SETRC and LDRC is in the range "1 ≤ imm ≤ 255" of 10_state.md R35
(47_dsp_control.md R419, R401). A program may hold the other words, and the decoder reads them (R120). -/
def Instr.wellFormed : Instr → Bool
  | .setrcImm i => i != 0
  | .ldrcImm i => i != 0
  | _ => true

end Sys2Proof
end

