-- ==== Sys2Proof/Certificates/Slice0/Obligations.lean ====
section
/-! DEFINITION. The statements for the provers. Each docstring says what the statement formalises; OBLIGATIONS.json names the
rules. Where a statement rests on a choice of the model, its docstring names the log entry. -/

open Sys2Proof Sys2Proof.Machine

/-- For every instruction, with every operand at every value, the decoder reads the instruction from the word the encoder
writes, and, in either byte order, from the two bytes of that word as memory holds them. (30_encoding.md section 3,
R110, R120.) -/
def Obligations.DecodeEncode : Prop :=
  ∀ i : Instr, decode (encode i) = .ok i ∧
    ∀ e : Config.Endian, decodeBytes e (encodeBytes e i) = .ok (i, [])

/-- If a word decodes to an instruction, encoding that instruction gives the word back, so no two words decode to one
instruction and no bit of a word is dropped. (30_encoding.md section 3, R120.) -/
def Obligations.EncodeDecode : Prop :=
  ∀ (w : Half) (i : Instr), decode w = .ok i → encode i = w

/-- Exactly the words with top four bits 1111 decode to the DSP unit's space, and executing one is refused in every state,
in a delay slot as well; executing a word that decodes to no instruction and lies outside that space raises the
general illegal instruction exception, and in a delay slot the slot illegal instruction exception. (R121, R122, R454,
R455, R478.) -/
def Obligations.WordsWithoutInstruction : Prop :=
  ∀ w : Half, (decode w = .error .dspSpace ↔ nib3 w = 0xF#4) ∧
    (nib3 w = 0xF#4 → ∀ s : State, runWord w s = .refused (.dspInstructionSpace w)) ∧
    (decode w = .error .undefinedWord → ∀ s : State,
      (s.pending = none → runWord w s = raise .generalIllegal s) ∧
      (s.pending ≠ none → runWord w s = raise .slotIllegal s))

/-- One word of each family of the opcode table, written out from its encoding, decodes to its instruction. (R120.) -/
def Obligations.SampleWords : Prop :=
  decode 0b0011000100001100#16 = .ok (.add 0 1) ∧ decode 0b1100110110000000#16 = .ok (.andB 0x80) ∧
    decode 0b1000111100000010#16 = .ok (.bfS 2) ∧ decode 0b0100111111110111#16 = .ok (.ldcLBank 15 7) ∧
    decode 0b0001000100001111#16 = .ok (.movLStoreDisp 0 15 1) ∧ decode 0b0100000110101001#16 = .ok (.movuaL 1) ∧
    decode 0b0100001000011100#16 = .ok (.shad 1 2) ∧ decode 0b0100001100010100#16 = .ok (.setrc 3)

/-- When the fetch at pc gives a word that decodes to an instruction which SLOT_ILLEGAL_EXTRA does not add to the slot
illegal set, the step is exec of that instruction: in a delay slot at this state; and at an instruction boundary where
the run has not ended, with RC = 0, no interrupt request and not asleep, at this state with the oracle's answer used
up. Where pc lies in a device region the host's answer to the fetch is used up as well (log 32). (R450, R200, R463,
R476.) -/
def Obligations.StepRunsInstruction : Prop :=
  ∀ (s : State) (w : Half) (i : Instr), fetch s = .ok w → decode w = .ok i → slotExtra s w = false →
    (s.pending ≠ none → step s = exec i (s.hostTaken s.pc)) ∧
    (s.pending = none → s.pc ∉ s.params.ends → s.rc = 0 → s.irqNow = none → s.asleep = false →
      step s = exec i ({ s with irq := s.irq.tail }.hostTaken s.pc)) ∧
    s.hostTaken s.pc = if s.isDevice s.pc then { s with host := s.host.tail } else s

/-- The fetch gives the word w exactly when pc is even, the mode may fetch at pc (privileged mode, or an address outside
the privileged area, or RTE's slot), the block of pc is not in dirty_code, and either both bytes lie in ram or rom
where no register is mapped and memory holds the two bytes of w there, or pc lies in a device region, pc + 1 in one or
in ram or rom where no register is mapped, and the host's next answer is w for a read of two bytes at pc. That no
fetch succeeds where a register is mapped (log 19), nor on a byte nothing has written (log 4), and the form of the
host's answers (log 32) are the model's choices. (R73, R75, R83, R89, R475.) -/
def Obligations.FetchCompletes : Prop :=
  ∀ (s : State) (w : Half), fetch s = .ok w ↔
    s.pc.toNat % 2 = 0 ∧ (s.mayAccess s.pc = true ∨ s.inRteSlot = true) ∧
    (blockOf s.pc).toNat ∉ s.dirtyCode ∧
    ((∀ k < 2, s.readableAt (s.pc + BitVec.ofNat 32 k) = true ∧
        s.holds (s.pc + BitVec.ofNat 32 k) = (halfBytes s w)[k]?) ∨
      (s.isDevice s.pc = true ∧ HostReadable s s.pc 2 ∧
        ∃ v : Word, s.host.head? = some (.read s.pc 2 v) ∧ w = v.setWidth 16))

/-- ADD Rm,Rn; ADD #imm,Rn; SUB; NEG; EXTS.B; EXTS.W; EXTU.B; EXTU.W complete in every state: Rn gets the value of its
rule, and every other register of both banks, SR, every special register and every byte of memory is unchanged; the
word of each, by its code, decodes to it; timing is not in the model, and that there is no subtract-immediate form
(R172) is seen in Instr. (R141, R142, R161, R162, R163, R164, R170, R172.) -/
def Obligations.ArithmeticRegister : Prop :=
  ∀ (s : State) (m n : Reg) (i : BitVec 8),
    Completes (.add m n) s (Leaves s (withReg s.r n (s.r n + s.r m)) s.sr s) ∧
    Completes (.addImm i n) s (Leaves s (withReg s.r n (s.r n + i.signExtend 32)) s.sr s) ∧
    Completes (.sub m n) s (Leaves s (withReg s.r n (s.r n - s.r m)) s.sr s) ∧
    Completes (.neg m n) s (Leaves s (withReg s.r n (0#32 - s.r m)) s.sr s) ∧
    Completes (.extsB m n) s (Leaves s (withReg s.r n (((s.r m).setWidth 8).signExtend 32)) s.sr s) ∧
    Completes (.extsW m n) s (Leaves s (withReg s.r n (((s.r m).setWidth 16).signExtend 32)) s.sr s) ∧
    Completes (.extuB m n) s (Leaves s (withReg s.r n (s.r m &&& 0x000000FF#32)) s.sr s) ∧
    Completes (.extuW m n) s (Leaves s (withReg s.r n (s.r m &&& 0x0000FFFF#32)) s.sr s) ∧
    decode (word4 0x3 n m 0xC) = .ok (.add m n) ∧
    decode (word448 0x7 n i) = .ok (.addImm i n) ∧
    decode (word4 0x3 n m 0x8) = .ok (.sub m n) ∧
    decode (word4 0x6 n m 0xB) = .ok (.neg m n) ∧
    decode (word4 0x6 n m 0xE) = .ok (.extsB m n) ∧
    decode (word4 0x6 n m 0xF) = .ok (.extsW m n) ∧
    decode (word4 0x6 n m 0xC) = .ok (.extuB m n) ∧
    decode (word4 0x6 n m 0xD) = .ok (.extuW m n)

/-- ADDC, SUBC and NEGC complete in every state: Rn gets the exact sum or difference modulo 2^32 and T says whether it
left the range 0 to 2^32 - 1; nothing else changes. (R140, R143, R171, R173.) -/
def Obligations.ArithmeticCarry : Prop :=
  ∀ (s : State) (m n : Reg),
    (let sum : Nat := (s.r n).toNat + (s.r m).toNat + s.tBit.toNat
     Completes (.addc m n) s
       (Leaves s (withReg s.r n (BitVec.ofNat 32 sum)) (srT s.sr (decide (2 ^ 32 ≤ sum))) s)) ∧
    (let diff : Int := (s.r n).toNat - (s.r m).toNat - s.tBit.toNat
     Completes (.subc m n) s
       (Leaves s (withReg s.r n (BitVec.ofInt 32 diff)) (srT s.sr (decide (diff < 0))) s)) ∧
    (let diff : Int := 0 - (s.r m).toNat - s.tBit.toNat
     Completes (.negc m n) s
       (Leaves s (withReg s.r n (BitVec.ofInt 32 diff)) (srT s.sr (decide (diff < 0))) s))

/-- ADDV and SUBV complete in every state: Rn gets the sum or difference modulo 2^32 and T is set exactly when the signed
result leaves the range of 32 bits; DT decrements Rn and T says whether it became 0; nothing else changes. (R140,
R144, R160, R174.) -/
def Obligations.ArithmeticOverflow : Prop :=
  ∀ (s : State) (m n : Reg),
    (let sum : Int := (s.r n).toInt + (s.r m).toInt
     Completes (.addv m n) s (Leaves s (withReg s.r n (s.r n + s.r m))
       (srT s.sr (decide (sum < -2 ^ 31 ∨ 2 ^ 31 ≤ sum))) s)) ∧
    (let diff : Int := (s.r n).toInt - (s.r m).toInt
     Completes (.subv m n) s (Leaves s (withReg s.r n (s.r n - s.r m))
       (srT s.sr (decide (diff < -2 ^ 31 ∨ 2 ^ 31 ≤ diff))) s)) ∧
    Completes (.dt n) s (Leaves s (withReg s.r n (s.r n - 1#32)) (srT s.sr (decide (s.r n = 1#32))) s)

/-- Every CMP form completes in every state and writes the result of its comparison to T; no register, other SR bit,
special register or byte of memory changes; the word of each, by its code, decodes to it; timing is not in the model.
(R145, R146, R147, R148, R149, R150, R151, R152, R153.) -/
def Obligations.Compares : Prop :=
  ∀ (s : State) (m n : Reg) (i : BitVec 8),
    Completes (.cmpEq m n) s (Leaves s s.r (srT s.sr (decide (s.r n = s.r m))) s) ∧
    Completes (.cmpGe m n) s (Leaves s s.r (srT s.sr (decide ((s.r m).toInt ≤ (s.r n).toInt))) s) ∧
    Completes (.cmpGt m n) s (Leaves s s.r (srT s.sr (decide ((s.r m).toInt < (s.r n).toInt))) s) ∧
    Completes (.cmpHi m n) s (Leaves s s.r (srT s.sr (decide ((s.r m).toNat < (s.r n).toNat))) s) ∧
    Completes (.cmpHs m n) s (Leaves s s.r (srT s.sr (decide ((s.r m).toNat ≤ (s.r n).toNat))) s) ∧
    Completes (.cmpPl n) s (Leaves s s.r (srT s.sr (decide (0 < (s.r n).toInt))) s) ∧
    Completes (.cmpPz n) s (Leaves s s.r (srT s.sr (decide (0 ≤ (s.r n).toInt))) s) ∧
    Completes (.cmpStr m n) s
      (Leaves s s.r (srT s.sr (decide (∃ k : Fin 4, (s.r n).extractLsb' (8 * k.val) 8 = (s.r m).extractLsb' (8
        * k.val) 8))) s) ∧
    Completes (.cmpEqImm i) s (Leaves s s.r (srT s.sr (decide (s.r 0 = i.signExtend 32))) s) ∧
    decode (word4 0x3 n m 0x0) = .ok (.cmpEq m n) ∧
    decode (word4 0x3 n m 0x3) = .ok (.cmpGe m n) ∧
    decode (word4 0x3 n m 0x7) = .ok (.cmpGt m n) ∧
    decode (word4 0x3 n m 0x6) = .ok (.cmpHi m n) ∧
    decode (word4 0x3 n m 0x2) = .ok (.cmpHs m n) ∧
    decode (word4 0x4 n 0x1 0x5) = .ok (.cmpPl n) ∧
    decode (word4 0x4 n 0x1 0x1) = .ok (.cmpPz n) ∧
    decode (word4 0x2 n m 0xC) = .ok (.cmpStr m n) ∧
    decode (word448 0x8 0x8 i) = .ok (.cmpEqImm i)

/-- DIV0S and DIV0U set Q, M and T; DIV1 makes one division step: with t0 the remainder shifted left with T entering, the
divisor is subtracted when the old Q equals M and added otherwise, Q becomes the old sign of Rn xor the borrow or
carry xor M, and T is set when the new Q equals M; nothing else changes. (R140, R154, R155, R156.) -/
def Obligations.DivisionSteps : Prop :=
  ∀ (s : State) (m n : Reg),
    Completes (.div0s m n) s
      (Leaves s s.r (srQMT s.sr (s.r n).msb (s.r m).msb ((s.r m).msb ^^ (s.r n).msb)) s) ∧
    Completes .div0u s (Leaves s s.r (srQMT s.sr false false false) s) ∧
    (let t0 : Word := (s.r n <<< 1) ||| (if s.tBit then 1#32 else 0#32)
     let r : Word := if s.qBit = s.mBit then t0 - s.r m else t0 + s.r m
     let c : Bool := if s.qBit = s.mBit then decide (t0.toNat < (s.r m).toNat)
       else decide (2 ^ 32 ≤ t0.toNat + (s.r m).toNat)
     let q : Bool := (s.r n).msb ^^ c ^^ s.mBit
     Completes (.div1 m n) s (Leaves s (withReg s.r n r) (srQMT s.sr q s.mBit (q == s.mBit)) s))

/-- DMULS.L and DMULU.L leave in MACH:MACL the exact signed or unsigned product of two registers; MUL.L leaves in MACL the
product modulo 2^32, MULS.W and MULU.W the exact product of the low words, with MACH unchanged; nothing else changes.
(R140, R158, R159, R167, R168, R169.) -/
def Obligations.Multiplies : Prop :=
  ∀ (s : State) (m n : Reg),
    Completes (.dmulsL m n) s (fun t => (t.mach ++ t.macl).toInt = (s.r n).toInt * (s.r m).toInt ∧
      Leaves s s.r s.sr { s with mach := t.mach, macl := t.macl } t) ∧
    Completes (.dmuluL m n) s (fun t => (t.mach ++ t.macl).toNat = (s.r n).toNat * (s.r m).toNat ∧
      Leaves s s.r s.sr { s with mach := t.mach, macl := t.macl } t) ∧
    Completes (.mulL m n) s (Leaves s s.r s.sr { s with macl := s.r n * s.r m }) ∧
    Completes (.mulsW m n) s (fun t =>
      t.macl.toInt = ((s.r n).setWidth 16).toInt * ((s.r m).setWidth 16).toInt ∧
      Leaves s s.r s.sr { s with macl := t.macl } t) ∧
    Completes (.muluW m n) s (fun t =>
      t.macl.toNat = ((s.r n).setWidth 16).toNat * ((s.r m).setWidth 16).toNat ∧
      Leaves s s.r s.sr { s with macl := t.macl } t)

/-- When longwords vn at Rn and vm at Rm (at Rn + 4 if both are one register) can be loaded, MAC.L completes with both
pointers advanced: with S = 0 MACH:MACL gains the exact signed product modulo 2^64; with S = 1 MACH[15:0]:MACL holds
the 48-bit sum brought into its signed range and MACH[31:16] are kept or copy its sign by MACL_SAT_HIGH; nothing else
changes. (R165, R140, R79.) -/
def Obligations.MacLong : Prop :=
  ∀ (s : State) (m n : Reg) (vn vm : Word),
    Loads s (s.r n) (longBytes s vn) → Loads s (if n = m then s.r n + 4#32 else s.r m) (longBytes s vm) →
    Completes (.macL m n) s (fun t =>
      Leaves s (if n = m then withReg s.r n (s.r n + 4#32 + 4#32)
      else withReg (withReg s.r n (s.r n + 4#32)) m (s.r m + 4#32))
        s.sr { s with mach := t.mach, macl := t.macl } t ∧
      (s.sBit = false → (t.mach ++ t.macl) = (s.mach ++ s.macl) + BitVec.ofInt 64 (vn.toInt * vm.toInt)) ∧
      (s.sBit = true →
        (t.mach.setWidth 16 ++ t.macl).toInt =
          max (-2 ^ 47) (min (2 ^ 47 - 1) ((s.mach.setWidth 16 ++ s.macl).toInt + vn.toInt * vm.toInt)) ∧
        (s.params.maclSatHigh = .preserve → t.mach.extractLsb' 16 16 = s.mach.extractLsb' 16 16) ∧
        (s.params.maclSatHigh = .signext →
          t.mach.extractLsb' 16 16 = if t.mach.getLsbD 15 then 0xFFFF#16 else 0#16)))

/-- When words vn at Rn and vm at Rm (at Rn + 2 if both are one register) can be loaded, MAC.W completes with both
pointers advanced: with S = 0 MACH:MACL gains the exact signed product modulo 2^64; with S = 1 MACL holds the sum
brought into the signed range of 32 bits, and MACH is unchanged, but for its bit 0, which on an overflow is its old
value or 1; nothing else the spec names changes. (R166, R140, R79.) -/
def Obligations.MacWord : Prop :=
  ∀ (s : State) (m n : Reg) (vn vm : Half),
    Loads s (s.r n) (halfBytes s vn) → Loads s (if n = m then s.r n + 2#32 else s.r m) (halfBytes s vm) →
    Completes (.macW m n) s (fun t =>
      Leaves s (if n = m then withReg s.r n (s.r n + 2#32 + 2#32)
      else withReg (withReg s.r n (s.r n + 2#32)) m (s.r m + 2#32))
        s.sr { s with mach := t.mach, macl := t.macl, freeCount := t.freeCount } t ∧
      (s.sBit = false → (t.mach ++ t.macl) = (s.mach ++ s.macl) + BitVec.ofInt 64 (vn.toInt * vm.toInt)) ∧
      (s.sBit = true →
        t.macl.toInt = max (-2 ^ 31) (min (2 ^ 31 - 1) (s.macl.toInt + vn.toInt * vm.toInt)) ∧
        (t.mach = s.mach ∨
          (t.macl.toInt ≠ s.macl.toInt + vn.toInt * vm.toInt ∧ t.mach = s.mach ||| 0x00000001#32))))

/-- The register and immediate forms of AND, OR and XOR, and NOT, complete in every state: the destination gets the
bitwise result, with the immediate zero-extended, and nothing else changes; the register and immediate forms of TST
complete with T set exactly when the bitwise and is zero, and nothing else changes; the word of each, by its code,
decodes to it; timing is not in the model. (R181, R182, R184, R185, R186, R189, R190, R192, R193.) -/
def Obligations.LogicalRegister : Prop :=
  ∀ (s : State) (m n : Reg) (i : BitVec 8),
    Completes (.andReg m n) s (Leaves s (withReg s.r n (s.r n &&& s.r m)) s.sr s) ∧
    Completes (.andImm i) s (Leaves s (withReg s.r 0 (s.r 0 &&& i.setWidth 32)) s.sr s) ∧
    Completes (.orReg m n) s (Leaves s (withReg s.r n (s.r n ||| s.r m)) s.sr s) ∧
    Completes (.orImm i) s (Leaves s (withReg s.r 0 (s.r 0 ||| i.setWidth 32)) s.sr s) ∧
    Completes (.xorReg m n) s (Leaves s (withReg s.r n (s.r n ^^^ s.r m)) s.sr s) ∧
    Completes (.xorImm i) s (Leaves s (withReg s.r 0 (s.r 0 ^^^ i.setWidth 32)) s.sr s) ∧
    Completes (.notReg m n) s (Leaves s (withReg s.r n (~~~(s.r m))) s.sr s) ∧
    Completes (.tstReg m n) s (Leaves s s.r (srT s.sr (decide (s.r n &&& s.r m = 0#32))) s) ∧
    Completes (.tstImm i) s (Leaves s s.r (srT s.sr (decide (s.r 0 &&& i.setWidth 32 = 0#32))) s) ∧
    decode (word4 0x2 n m 0x9) = .ok (.andReg m n) ∧
    decode (word448 0xC 0x9 i) = .ok (.andImm i) ∧
    decode (word4 0x2 n m 0xB) = .ok (.orReg m n) ∧
    decode (word448 0xC 0xB i) = .ok (.orImm i) ∧
    decode (word4 0x2 n m 0xA) = .ok (.xorReg m n) ∧
    decode (word448 0xC 0xA i) = .ok (.xorImm i) ∧
    decode (word4 0x6 n m 0x7) = .ok (.notReg m n) ∧
    decode (word4 0x2 n m 0x8) = .ok (.tstReg m n) ∧
    decode (word448 0xC 0x8 i) = .ok (.tstImm i)

/-- When the byte b at GBR + R0 (for TAS.B at Rn) can be loaded and stored to, the instruction completes: AND.B, OR.B and
XOR.B store the bitwise result of b and the immediate there; TAS.B stores b with bit 7 set and T says whether b was
zero; TST.B stores nothing and T says whether b and the immediate have no bit in common; every other byte, register
and SR bit is unchanged. (R180, R183, R187, R188, R191, R194.) -/
def Obligations.LogicalByte : Prop :=
  ∀ (s : State) (n : Reg) (i b : BitVec 8),
    (Loads s (s.gbr + s.r 0) [b] → Storable s (s.gbr + s.r 0) 1 →
      Completes (.andB i) s (LeavesStored s s.r s.sr s (s.gbr + s.r 0) [b &&& i]) ∧
      Completes (.orB i) s (LeavesStored s s.r s.sr s (s.gbr + s.r 0) [b ||| i]) ∧
      Completes (.xorB i) s (LeavesStored s s.r s.sr s (s.gbr + s.r 0) [b ^^^ i]) ∧
      Completes (.tstB i) s (Leaves s s.r (srT s.sr (decide (b &&& i = 0#8))) s)) ∧
    (Loads s (s.r n) [b] → Storable s (s.r n) 1 →
      Completes (.tasB n) s (LeavesStored s s.r (srT s.sr (decide (b = 0#8))) s (s.r n) [b ||| 0x80#8]))

/-- Outside a delay slot BF and BT complete at their target or at pc + 2, as T says; BRA, BRAF, JMP, RTS, BF/S and BT/S
complete with the slot instruction at pc + 2 next and their target, read before the slot executes, pending; an untaken
BF/S or BT/S has pc + 4 pending; nothing else changes. (R24, R200, R201, R202, R205, R206, R207, R208, R209, R210,
R211, R212.) -/
def Obligations.Branches : Prop :=
  ∀ (s : State) (d : BitVec 8) (e : BitVec 12) (n : Reg), s.pending = none →
    Completes (.bfS d) s (fun t => SameButPc s t ∧ t.pc = s.pc + 2#32 ∧
      t.pending = some ⟨s.pc, if s.tBit then s.pc + 4#32 else s.pc + 4#32 + 2#32 * d.signExtend 32, false⟩) ∧
    Completes (.btS d) s (fun t => SameButPc s t ∧ t.pc = s.pc + 2#32 ∧
      t.pending = some ⟨s.pc, if s.tBit then s.pc + 4#32 + 2#32 * d.signExtend 32 else s.pc + 4#32, false⟩) ∧
    Completes (.bra e) s (fun t => SameButPc s t ∧ t.pc = s.pc + 2#32 ∧
      t.pending = some ⟨s.pc, s.pc + 4#32 + 2#32 * e.signExtend 32, false⟩) ∧
    Completes (.braf n) s (fun t => SameButPc s t ∧ t.pc = s.pc + 2#32 ∧
      t.pending = some ⟨s.pc, s.pc + 4#32 + s.r n, false⟩) ∧
    Completes (.jmp n) s (fun t => SameButPc s t ∧ t.pc = s.pc + 2#32 ∧
      t.pending = some ⟨s.pc, s.r n, false⟩) ∧
    Completes (.rts) s (fun t => SameButPc s t ∧ t.pc = s.pc + 2#32 ∧
      t.pending = some ⟨s.pc, s.pr, false⟩) ∧
    Completes (.bf d) s (fun t => SameButPc s t ∧ t.pending = none ∧
      t.pc = if s.tBit then s.pc + 2#32 else s.pc + 4#32 + 2#32 * d.signExtend 32) ∧
    Completes (.bt d) s (fun t => SameButPc s t ∧ t.pending = none ∧
      t.pc = if s.tBit then s.pc + 4#32 + 2#32 * d.signExtend 32 else s.pc + 2#32)

/-- Outside a delay slot BSR, BSRF and JSR complete with pc + 4 in PR, or pc + 6 when IS32 holds of the word in the slot,
the slot instruction at pc + 2 next and their target pending; nothing else changes. The word in the slot is the one
that a fetch at pc + 2 gives, from memory or from a device region. (R201, R213, R214, R215, R216.) -/
def Obligations.SubroutineCalls : Prop :=
  ∀ (s : State) (e : BitVec 12) (n : Reg), s.pending = none →
    (∀ w : Half, fetch { s with pc := s.pc + 2#32 } = .ok w →
      is32 s (s.pc + 2#32) = matchesAny s.params.is32 w) ∧
    let ret : Word := if is32 s (s.pc + 2#32) then s.pc + 6#32 else s.pc + 4#32
    Completes (.bsr e) s (fun t => SameButPc { s with pr := ret } t ∧ t.pc = s.pc + 2#32 ∧
      t.pending = some ⟨s.pc, s.pc + 4#32 + 2#32 * e.signExtend 32, false⟩) ∧
    Completes (.bsrf n) s (fun t => SameButPc { s with pr := ret } t ∧ t.pc = s.pc + 2#32 ∧
      t.pending = some ⟨s.pc, s.pc + 4#32 + s.r n, false⟩) ∧
    Completes (.jsr n) s (fun t => SameButPc { s with pr := ret } t ∧ t.pc = s.pc + 2#32 ∧
      t.pending = some ⟨s.pc, s.r n, false⟩)

/-- In a delay slot, whatever instruction executes: if it answers a next state then no branch is pending any more, and
either the pc is the target of the branch or the state is at the handler of an exception with the address of the
branch in SPC. (R200, R202, R464.) -/
def Obligations.SlotThenTarget : Prop :=
  ∀ (s t : State) (i : Instr) (p : Slot), s.pending = some p → exec i s = .next t →
    t.pending = none ∧
      (t.pc = p.target ∨
        ∃ e : Exc, t.pc = s.vbr + (excEntry s.params.excTable e).offset ∧ t.spc = p.branch ∧
          t.expevt = (excEntry s.params.excTable e).code)

/-- CLRMAC, CLRS, CLRT, SETS, SETT and NOP complete in every state: MACH and MACL become 0, S or T becomes 0 or 1, or
nothing changes but the pc; nothing else changes; the word of each, by its code, decodes to it; timing is not in the
model. (R231, R232, R233, R255, R257, R258.) -/
def Obligations.FlagInstructions : Prop :=
  ∀ s : State,
    Completes .clrmac s (Leaves s s.r s.sr { s with mach := 0#32, macl := 0#32 }) ∧
    Completes .clrs s (Leaves s s.r (s.sr &&& 0xFFFFFFFD#32) s) ∧
    Completes .sets s (Leaves s s.r (s.sr ||| 0x00000002#32) s) ∧
    Completes .clrt s (Leaves s s.r (s.sr &&& 0xFFFFFFFE#32) s) ∧
    Completes .sett s (Leaves s s.r (s.sr ||| 0x00000001#32) s) ∧
    Completes .nop s (Leaves s s.r s.sr s) ∧
    decode (0b0000000000101000#16) = .ok (.clrmac) ∧
    decode (0b0000000001001000#16) = .ok (.clrs) ∧
    decode (0b0000000000001000#16) = .ok (.clrt) ∧
    decode (0b0000000001011000#16) = .ok (.sets) ∧
    decode (0b0000000000011000#16) = .ok (.sett) ∧
    decode (0b0000000000001001#16) = .ok (.nop)

/-- LDC Rm,GBR and LDS Rm to MACH, MACL and PR complete in every state, LDC Rm to VBR, SGR, SSR, SPC and DBR in privileged
mode, LDC Rm to MOD, RE and RS and LDS Rm to DSR, A0, X0, X1, Y0 and Y1 with SR.DSP = 1: the register gets all 32 bits
of Rm (DSR its bits 3 to 0, A0G the sign of A0) and nothing else changes. (43_system_control.md sections 3 and 4,
47_dsp_control.md sections 4 and 6, R230, R390, R403, R404.) -/
def Obligations.SpecialRegisterLoads : Prop :=
  ∀ (s : State) (m : Reg),
    Completes (.ldcGbr m) s (Leaves s s.r s.sr { s with gbr := s.r m }) ∧
    Completes (.ldsMach m) s (Leaves s s.r s.sr { s with mach := s.r m }) ∧
    Completes (.ldsMacl m) s (Leaves s s.r s.sr { s with macl := s.r m }) ∧
    Completes (.ldsPr m) s (Leaves s s.r s.sr { s with pr := s.r m }) ∧
    (s.md = true →
      Completes (.ldcVbr m) s (Leaves s s.r s.sr { s with vbr := s.r m }) ∧
      Completes (.ldcSgr m) s (Leaves s s.r s.sr { s with sgr := s.r m }) ∧
      Completes (.ldcSsr m) s (Leaves s s.r s.sr { s with ssr := s.r m }) ∧
      Completes (.ldcSpc m) s (Leaves s s.r s.sr { s with spc := s.r m }) ∧
      Completes (.ldcDbr m) s (Leaves s s.r s.sr { s with dbr := s.r m })) ∧
    (s.dsp = true →
      Completes (.ldcMod m) s (Leaves s s.r s.sr { s with mod := s.r m }) ∧
      Completes (.ldcRe m) s (Leaves s s.r s.sr { s with re := s.r m }) ∧
      Completes (.ldcRs m) s (Leaves s s.r s.sr { s with rs := s.r m }) ∧
      Completes (.ldsX0 m) s (Leaves s s.r s.sr { s with x0 := s.r m }) ∧
      Completes (.ldsX1 m) s (Leaves s s.r s.sr { s with x1 := s.r m }) ∧
      Completes (.ldsY0 m) s (Leaves s s.r s.sr { s with y0 := s.r m }) ∧
      Completes (.ldsY1 m) s (Leaves s s.r s.sr { s with y1 := s.r m }) ∧
      Completes (.ldsDsr m) s (Leaves s s.r s.sr { s with dsr := s.r m &&& 0x0000000F#32 }) ∧
      Completes (.ldsA0 m) s (Leaves s s.r s.sr
      { s with a0 := s.r m, a0g := if (s.r m).msb then 0xFF#8 else 0x00#8 }))

/-- When the longword v at Rm can be loaded, LDC.L @Rm+,GBR and LDS.L @Rm+ to MACH, MACL and PR complete, LDC.L @Rm+ to
VBR, SGR, SSR, SPC and DBR in privileged mode, LDC.L @Rm+ to MOD, RE and RS and LDS.L @Rm+ to DSR, A0, X0, X1, Y0 and
Y1 with SR.DSP = 1: the register gets v (DSR its bits 3 to 0, A0G the sign of A0), Rm goes up by 4 and nothing else
changes. (43_system_control.md sections 3 and 4, 47_dsp_control.md sections 4 and 6, R230, R390, R409, R410.) -/
def Obligations.SpecialRegisterPops : Prop :=
  ∀ (s : State) (m : Reg) (v : Word), Loads s (s.r m) (longBytes s v) →
    Completes (.ldcLGbr m) s (Leaves s (withReg s.r m (s.r m + 4#32)) s.sr { s with gbr := v }) ∧
    Completes (.ldsLMach m) s (Leaves s (withReg s.r m (s.r m + 4#32)) s.sr { s with mach := v }) ∧
    Completes (.ldsLMacl m) s (Leaves s (withReg s.r m (s.r m + 4#32)) s.sr { s with macl := v }) ∧
    Completes (.ldsLPr m) s (Leaves s (withReg s.r m (s.r m + 4#32)) s.sr { s with pr := v }) ∧
    (s.md = true →
      Completes (.ldcLVbr m) s (Leaves s (withReg s.r m (s.r m + 4#32)) s.sr { s with vbr := v }) ∧
      Completes (.ldcLSgr m) s (Leaves s (withReg s.r m (s.r m + 4#32)) s.sr { s with sgr := v }) ∧
      Completes (.ldcLSsr m) s (Leaves s (withReg s.r m (s.r m + 4#32)) s.sr { s with ssr := v }) ∧
      Completes (.ldcLSpc m) s (Leaves s (withReg s.r m (s.r m + 4#32)) s.sr { s with spc := v }) ∧
      Completes (.ldcLDbr m) s (Leaves s (withReg s.r m (s.r m + 4#32)) s.sr { s with dbr := v })) ∧
    (s.dsp = true →
      Completes (.ldcLMod m) s (Leaves s (withReg s.r m (s.r m + 4#32)) s.sr { s with mod := v }) ∧
      Completes (.ldcLRe m) s (Leaves s (withReg s.r m (s.r m + 4#32)) s.sr { s with re := v }) ∧
      Completes (.ldcLRs m) s (Leaves s (withReg s.r m (s.r m + 4#32)) s.sr { s with rs := v }) ∧
      Completes (.ldsLX0 m) s (Leaves s (withReg s.r m (s.r m + 4#32)) s.sr { s with x0 := v }) ∧
      Completes (.ldsLX1 m) s (Leaves s (withReg s.r m (s.r m + 4#32)) s.sr { s with x1 := v }) ∧
      Completes (.ldsLY0 m) s (Leaves s (withReg s.r m (s.r m + 4#32)) s.sr { s with y0 := v }) ∧
      Completes (.ldsLY1 m) s (Leaves s (withReg s.r m (s.r m + 4#32)) s.sr { s with y1 := v }) ∧
      Completes (.ldsLDsr m) s (Leaves s (withReg s.r m (s.r m + 4#32)) s.sr { s with dsr := v &&& 0x0000000F#32 }) ∧
      Completes (.ldsLA0 m) s (Leaves s (withReg s.r m (s.r m + 4#32)) s.sr
      { s with a0 := v, a0g := if v.msb then 0xFF#8 else 0x00#8 }))

/-- STC GBR,Rn and STS of MACH, MACL and PR complete in every state, STC of VBR, SSR, SPC, SGR and DBR in privileged mode,
STC of MOD, RE and RS and STS of DSR, A0, X0, X1, Y0 and Y1 with SR.DSP = 1: Rn gets all 32 bits of the register and
nothing else changes. (43_system_control.md sections 5 and 6, 47_dsp_control.md sections 4 and 7, R230, R390.) -/
def Obligations.SpecialRegisterStores : Prop :=
  ∀ (s : State) (n : Reg),
    Completes (.stcGbr n) s (Leaves s (withReg s.r n s.gbr) s.sr s) ∧
    Completes (.stsMach n) s (Leaves s (withReg s.r n s.mach) s.sr s) ∧
    Completes (.stsMacl n) s (Leaves s (withReg s.r n s.macl) s.sr s) ∧
    Completes (.stsPr n) s (Leaves s (withReg s.r n s.pr) s.sr s) ∧
    (s.md = true →
      Completes (.stcVbr n) s (Leaves s (withReg s.r n s.vbr) s.sr s) ∧
      Completes (.stcSgr n) s (Leaves s (withReg s.r n s.sgr) s.sr s) ∧
      Completes (.stcSsr n) s (Leaves s (withReg s.r n s.ssr) s.sr s) ∧
      Completes (.stcSpc n) s (Leaves s (withReg s.r n s.spc) s.sr s) ∧
      Completes (.stcDbr n) s (Leaves s (withReg s.r n s.dbr) s.sr s)) ∧
    (s.dsp = true →
      Completes (.stcMod n) s (Leaves s (withReg s.r n s.mod) s.sr s) ∧
      Completes (.stcRe n) s (Leaves s (withReg s.r n s.re) s.sr s) ∧
      Completes (.stcRs n) s (Leaves s (withReg s.r n s.rs) s.sr s) ∧
      Completes (.stsDsr n) s (Leaves s (withReg s.r n s.dsr) s.sr s) ∧
      Completes (.stsA0 n) s (Leaves s (withReg s.r n s.a0) s.sr s) ∧
      Completes (.stsX0 n) s (Leaves s (withReg s.r n s.x0) s.sr s) ∧
      Completes (.stsX1 n) s (Leaves s (withReg s.r n s.x1) s.sr s) ∧
      Completes (.stsY0 n) s (Leaves s (withReg s.r n s.y0) s.sr s) ∧
      Completes (.stsY1 n) s (Leaves s (withReg s.r n s.y1) s.sr s))

/-- When a longword can be stored at Rn - 4, STC.L GBR and STS.L of MACH, MACL and PR complete, STC.L of VBR, SSR, SPC,
SGR and DBR in privileged mode, STC.L of MOD, RE and RS and STS.L of DSR, A0, X0, X1, Y0 and Y1 with SR.DSP = 1: the
register is stored at Rn - 4, Rn goes down by 4, and no other byte or register changes. (43_system_control.md sections
5 and 6, 47_dsp_control.md sections 4 and 7, R230, R390.) -/
def Obligations.SpecialRegisterPushes : Prop :=
  ∀ (s : State) (n : Reg), Storable s (s.r n - 4#32) 4 →
    Completes (.stcLGbr n) s
        (LeavesStored s (withReg s.r n (s.r n - 4#32)) s.sr s (s.r n - 4#32) (longBytes s s.gbr)) ∧
    Completes (.stsLMach n) s
        (LeavesStored s (withReg s.r n (s.r n - 4#32)) s.sr s (s.r n - 4#32) (longBytes s s.mach)) ∧
    Completes (.stsLMacl n) s
        (LeavesStored s (withReg s.r n (s.r n - 4#32)) s.sr s (s.r n - 4#32) (longBytes s s.macl)) ∧
    Completes (.stsLPr n) s
        (LeavesStored s (withReg s.r n (s.r n - 4#32)) s.sr s (s.r n - 4#32) (longBytes s s.pr)) ∧
    (s.md = true →
      Completes (.stcLVbr n) s
        (LeavesStored s (withReg s.r n (s.r n - 4#32)) s.sr s (s.r n - 4#32) (longBytes s s.vbr)) ∧
      Completes (.stcLSgr n) s
        (LeavesStored s (withReg s.r n (s.r n - 4#32)) s.sr s (s.r n - 4#32) (longBytes s s.sgr)) ∧
      Completes (.stcLSsr n) s
        (LeavesStored s (withReg s.r n (s.r n - 4#32)) s.sr s (s.r n - 4#32) (longBytes s s.ssr)) ∧
      Completes (.stcLSpc n) s
        (LeavesStored s (withReg s.r n (s.r n - 4#32)) s.sr s (s.r n - 4#32) (longBytes s s.spc)) ∧
      Completes (.stcLDbr n) s
        (LeavesStored s (withReg s.r n (s.r n - 4#32)) s.sr s (s.r n - 4#32) (longBytes s s.dbr))) ∧
    (s.dsp = true →
      Completes (.stcLMod n) s
        (LeavesStored s (withReg s.r n (s.r n - 4#32)) s.sr s (s.r n - 4#32) (longBytes s s.mod)) ∧
      Completes (.stcLRe n) s
        (LeavesStored s (withReg s.r n (s.r n - 4#32)) s.sr s (s.r n - 4#32) (longBytes s s.re)) ∧
      Completes (.stcLRs n) s
        (LeavesStored s (withReg s.r n (s.r n - 4#32)) s.sr s (s.r n - 4#32) (longBytes s s.rs)) ∧
      Completes (.stsLDsr n) s
        (LeavesStored s (withReg s.r n (s.r n - 4#32)) s.sr s (s.r n - 4#32) (longBytes s s.dsr)) ∧
      Completes (.stsLA0 n) s
        (LeavesStored s (withReg s.r n (s.r n - 4#32)) s.sr s (s.r n - 4#32) (longBytes s s.a0)) ∧
      Completes (.stsLX0 n) s
        (LeavesStored s (withReg s.r n (s.r n - 4#32)) s.sr s (s.r n - 4#32) (longBytes s s.x0)) ∧
      Completes (.stsLX1 n) s
        (LeavesStored s (withReg s.r n (s.r n - 4#32)) s.sr s (s.r n - 4#32) (longBytes s s.x1)) ∧
      Completes (.stsLY0 n) s
        (LeavesStored s (withReg s.r n (s.r n - 4#32)) s.sr s (s.r n - 4#32) (longBytes s s.y0)) ∧
      Completes (.stsLY1 n) s
        (LeavesStored s (withReg s.r n (s.r n - 4#32)) s.sr s (s.r n - 4#32) (longBytes s s.y1)))

/-- In privileged mode LDC Rm,Rb_BANK writes register b of the bank that is not current and leaves the current registers;
STC Rb_BANK,Rn reads it; the .L forms do so through memory with Rm up or Rn down by 4, when the access is allowed; no
other register of either bank changes. (R21, R240, R247, R266, R273.) -/
def Obligations.BankedRegisters : Prop :=
  ∀ (s : State) (m n : Reg) (b : BankReg), s.md = true →
    Completes (.ldcBank m b) s (fun t => (∀ i, t.r i = s.r i) ∧
      (∀ c, t.bankR c = (if c = b then s.r m else s.bankR c)) ∧ t.sr = s.sr ∧ SameRest s t ∧ SameMemory s t ∧
      t.dirtyCode = s.dirtyCode ∧ Advanced s t) ∧
    (∀ v : Word, Loads s (s.r m) (longBytes s v) →
      Completes (.ldcLBank m b) s (fun t => (∀ i, t.r i = withReg s.r m (s.r m + 4#32) i) ∧
        (∀ c, t.bankR c = (if c = b then v else s.bankR c)) ∧ t.sr = s.sr ∧ SameRest s t ∧ SameMemory s t ∧
        t.dirtyCode = s.dirtyCode ∧ Advanced s t)) ∧
    Completes (.stcBank b n) s (Leaves s (withReg s.r n (s.bankR b)) s.sr s) ∧
    (Storable s (s.r n - 4#32) 4 →
      Completes (.stcLBank b n) s
        (LeavesStored s (withReg s.r n (s.r n - 4#32)) s.sr s (s.r n - 4#32) (longBytes s (s.bankR b))))

/-- In privileged mode LDTLB is refused when the launch's parameter for it is refuse, which is the default, as R254 and
R478 say; when the parameter is load it completes: the TLB entry that MMUCR.URC names holds the fields of PTEH and
PTEL that R48 lists, every other entry and everything else is unchanged. The parameter and the load are the model's
choice (log 17), and so is that URC is bits 15 to 10 of MMUCR (log 18). (R48, R254, R478.) -/
def Obligations.LoadTlb : Prop :=
  ∀ s : State, s.md = true →
    (s.params.ldtlb = .refuse → exec .ldtlb s = .refused .ldtlbWithoutTlb) ∧
    defaultParams.ldtlb = .refuse ∧
    (s.params.ldtlb = .load →
      Completes .ldtlb s (fun t =>
        Leaves s s.r s.sr { s with tlb := t.tlb } t ∧
        (∀ k : Nat, k ≠ (s.mmucr.extractLsb' 10 6).toNat → assocGet t.tlb k = assocGet s.tlb k) ∧
        ∃ e : TlbEntry, assocGet t.tlb (s.mmucr.extractLsb' 10 6).toNat = some e ∧
          e.asid.toNat = (s.pteh &&& 0x000000FF#32).toNat ∧
          e.vpn.toNat = ((s.pteh &&& 0xFFFFFC00#32) >>> 10).toNat ∧
          e.ppn.toNat = ((s.ptel &&& 0x1FFFFC00#32) >>> 10).toNat ∧
          e.sz.toNat = (((s.ptel &&& 0x00000080#32) >>> 6) ||| ((s.ptel &&& 0x00000010#32) >>> 4)).toNat ∧
          e.sh.toNat = ((s.ptel &&& 0x00000002#32) >>> 1).toNat ∧
          e.pr.toNat = ((s.ptel &&& 0x00000060#32) >>> 5).toNat ∧
          e.wt.toNat = (s.ptel &&& 0x00000001#32).toNat ∧
          e.c.toNat = ((s.ptel &&& 0x00000008#32) >>> 3).toNat ∧
          e.d.toNat = ((s.ptel &&& 0x00000004#32) >>> 2).toNat ∧
          e.v.toNat = ((s.ptel &&& 0x00000100#32) >>> 8).toNat))

/-- In privileged mode SLEEP completes with asleep set and nothing else changed. A step of a sleeping machine at an
instruction boundary, where the run has not ended, with RC = 0 and no interrupt request, changes nothing but the
answer of the oracle that it uses up. Where the run has ended (at an instruction boundary at an address of END, or
asleep with no interrupt to come) there is no step to take: the model's step answers the same state (log 25). (R57,
R259, R474, R450, R476.) -/
def Obligations.SleepAndWait : Prop :=
  (∀ s : State, s.md = true → Completes .sleep s (Leaves s s.r s.sr { s with asleep := true })) ∧
    (∀ s : State, s.pending = none → s.asleep = true → ¬ RunEnded s → s.rc = 0 → s.irqNow = none →
      step s = .next { s with irq := s.irq.tail }) ∧
    (∀ s : State, RunEnded s → step s = .next s)

/-- Outside a delay slot and with BL = 0, in either mode, TRAPA completes: TRA gets the immediate times 4, SSR the old SR,
SPC pc + 2, SGR R15, SR its MD, RB and BL set, EXPEVT the code of the unconditional trap in EXC_TABLE (H'160 in the
default table), LDST is cleared and the pc is VBR plus the table's offset (H'100 by default); nothing else changes.
(R280, R453, R451, R452.) -/
def Obligations.TrapA : Prop :=
  (∀ (s : State) (i : BitVec 8), s.pending = none → s.bl = false →
      Completes (.trapa i) s
        (Entered { s with tra := 4#32 * i.setWidth 32 } s.params.excTable.unconditionalTrap.code (s.pc + 2#32)
          s.params.excTable.unconditionalTrap.offset)) ∧
    defaultExcTable.unconditionalTrap.code = 0x160#32 ∧ defaultExcTable.unconditionalTrap.offset = 0x100#32

/-- In privileged mode, outside a delay slot, RTE completes: SR is SSR under the mask H'7FFF1FFF, the slot instruction at
pc + 2 is next and SPC is pending as the target; no register of either bank, no special register and no byte of memory
changes. (R256, R37, R462.) -/
def Obligations.ReturnFromException : Prop :=
  ∀ s : State, s.md = true → s.pending = none →
    Completes .rte s (fun t => t.sr = s.ssr &&& 0x7FFF1FFF#32 ∧ t.pc = s.pc + 2#32 ∧
      t.pending = some ⟨s.pc, s.spc, true⟩ ∧ SameBanks s t ∧ SameRest s t ∧ SameMemory s t ∧
      t.dirtyCode = s.dirtyCode)

/-- MOV Rm,Rn, MOV #imm,Rn, MOVT, SWAP.B, SWAP.W and XTRCT complete in every state: the destination gets the value of its
rule and nothing else changes; the word of each, by its code, decodes to it; timing is not in the model. (R301, R320,
R336, R337, R338, R339.) -/
def Obligations.RegisterMoves : Prop :=
  ∀ (s : State) (m n : Reg) (i : BitVec 8),
    Completes (.mov m n) s (Leaves s (withReg s.r n (s.r m)) s.sr s) ∧
    Completes (.movImm i n) s (Leaves s (withReg s.r n (i.signExtend 32)) s.sr s) ∧
    Completes (.movt n) s (Leaves s (withReg s.r n (s.sr &&& 0x00000001#32)) s.sr s) ∧
    Completes (.swapB m n) s
      (Leaves s (withReg s.r n ((s.r m &&& 0xFFFF0000#32) ||| ((s.r m &&& 0x000000FF#32) <<< 8) |||
        ((s.r m &&& 0x0000FF00#32) >>> 8))) s.sr s) ∧
    Completes (.swapW m n) s (Leaves s (withReg s.r n ((s.r m <<< 16) ||| (s.r m >>> 16))) s.sr s) ∧
    Completes (.xtrct m n) s
      (Leaves s (withReg s.r n (((s.r m <<< 16) &&& 0xFFFF0000#32) ||| ((s.r n >>> 16) &&& 0x0000FFFF#32))) s.sr s) ∧
    decode (word4 0x6 n m 0x3) = .ok (.mov m n) ∧
    decode (word448 0xE n i) = .ok (.movImm i n) ∧
    decode (word4 0x0 n 0x2 0x9) = .ok (.movt n) ∧
    decode (word4 0x6 n m 0x8) = .ok (.swapB m n) ∧
    decode (word4 0x6 n m 0x9) = .ok (.swapW m n) ∧
    decode (word4 0x2 n m 0xD) = .ok (.xtrct m n)

/-- When the byte, word or longword at the effective address can be loaded, MOV.B, MOV.W and MOV.L from @Rm, @(R0,Rm),
@(disp,GBR) and @(disp,Rm) complete: the destination gets the value, a byte or word sign-extended, and nothing else
changes. Accesses to a device region and to a mapped register are stated in DeviceAccesses and ControlRegistersMapped.
(R300, R305, R306, R307, R317, R318, R319, R323, R324, R325, 44_data_transfer.md section 5.) -/
def Obligations.LoadsOfMemory : Prop :=
  ∀ (s : State) (m n : Reg) (e : BitVec 8) (d : BitVec 4),
    (∀ v : Byte,
      (Loads s (s.r m) [v] →
        Completes (.movBLoad m n) s (Leaves s (withReg s.r n (v.signExtend 32)) s.sr s)) ∧
      (Loads s (s.r m + s.r 0) [v] →
        Completes (.movBLoadIdx m n) s (Leaves s (withReg s.r n (v.signExtend 32)) s.sr s)) ∧
      (Loads s (s.gbr + e.setWidth 32) [v] →
        Completes (.movBLoadGbr e) s (Leaves s (withReg s.r 0 (v.signExtend 32)) s.sr s)) ∧
      (Loads s (s.r m + d.setWidth 32) [v] →
        Completes (.movBLoadDisp d m) s (Leaves s (withReg s.r 0 (v.signExtend 32)) s.sr s))) ∧
    (∀ v : Half,
      (Loads s (s.r m) (halfBytes s v) →
        Completes (.movWLoad m n) s (Leaves s (withReg s.r n (v.signExtend 32)) s.sr s)) ∧
      (Loads s (s.r m + s.r 0) (halfBytes s v) →
        Completes (.movWLoadIdx m n) s (Leaves s (withReg s.r n (v.signExtend 32)) s.sr s)) ∧
      (Loads s (s.gbr + 2#32 * e.setWidth 32) (halfBytes s v) →
        Completes (.movWLoadGbr e) s (Leaves s (withReg s.r 0 (v.signExtend 32)) s.sr s)) ∧
      (Loads s (s.r m + 2#32 * d.setWidth 32) (halfBytes s v) →
        Completes (.movWLoadDisp d m) s (Leaves s (withReg s.r 0 (v.signExtend 32)) s.sr s))) ∧
    (∀ v : Word,
      (Loads s (s.r m) (longBytes s v) →
        Completes (.movLLoad m n) s (Leaves s (withReg s.r n (v)) s.sr s)) ∧
      (Loads s (s.r m + s.r 0) (longBytes s v) →
        Completes (.movLLoadIdx m n) s (Leaves s (withReg s.r n (v)) s.sr s)) ∧
      (Loads s (s.gbr + 4#32 * e.setWidth 32) (longBytes s v) →
        Completes (.movLLoadGbr e) s (Leaves s (withReg s.r 0 (v)) s.sr s)) ∧
      (Loads s (s.r m + 4#32 * d.setWidth 32) (longBytes s v) →
        Completes (.movLLoadDisp d m n) s (Leaves s (withReg s.r n (v)) s.sr s)))

/-- Outside a delay slot, MOV.W @(disp,PC) completes where the word at pc + 4 + 2 disp can be loaded, with it sign-
extended in Rn; MOV.L @(disp,PC) where the longword at pc, its low two bits cleared, + 4 + 4 disp can be; MOVA leaves
that address in R0; and with SR.DSP = 1, LDRE leaves pc + b + 2 times its signed displacement in RE, and LDRS in RS, b
being LDRE_PC_BIAS, 4 by default or 0; nothing else changes. (R300, R321, R322, R335, R390, R402, R415.) -/
def Obligations.PcRelative : Prop :=
  ∀ (s : State) (n : Reg) (e : BitVec 8), s.pending = none →
    (∀ v : Half, Loads s (s.pc + 4#32 + 2#32 * e.setWidth 32) (halfBytes s v) →
      Completes (.movWLoadPc e n) s (Leaves s (withReg s.r n (v.signExtend 32)) s.sr s)) ∧
    (∀ v : Word, Loads s ((s.pc &&& 0xFFFFFFFC#32) + 4#32 + 4#32 * e.setWidth 32) (longBytes s v) →
      Completes (.movLLoadPc e n) s (Leaves s (withReg s.r n (v)) s.sr s)) ∧
    Completes (.mova e) s (Leaves s (withReg s.r 0 ((s.pc &&& 0xFFFFFFFC#32) + 4#32 + 4#32 * e.setWidth 32)) s.sr s) ∧
    (s.dsp = true →
      let b : Word := if s.params.ldrePcBias = .four then 4#32 else 0#32
      Completes (.ldre e) s (Leaves s s.r s.sr { s with re := s.pc + b + 2#32 * e.signExtend 32 }) ∧
      Completes (.ldrs e) s (Leaves s s.r s.sr { s with rs := s.pc + b + 2#32 * e.signExtend 32 }))

/-- When the operand at Rm can be loaded, MOV.B, MOV.W and MOV.L from @Rm+ complete: Rn gets the value, sign-extended, and
Rm goes up by the size, but with n = m the register holds the loaded value alone; nothing else changes. (R300, R311,
R312, R313.) -/
def Obligations.LoadsPostIncrement : Prop :=
  ∀ (s : State) (m n : Reg),
    (∀ v : Byte, Loads s (s.r m) [v] →
      Completes (.movBLoadInc m n) s (Leaves s (if n = m then withReg s.r n (v.signExtend 32)
        else withReg (withReg s.r n (v.signExtend 32)) m (s.r m + 1#32)) s.sr s)) ∧
    (∀ v : Half, Loads s (s.r m) (halfBytes s v) →
      Completes (.movWLoadInc m n) s (Leaves s (if n = m then withReg s.r n (v.signExtend 32)
        else withReg (withReg s.r n (v.signExtend 32)) m (s.r m + 2#32)) s.sr s)) ∧
    (∀ v : Word, Loads s (s.r m) (longBytes s v) →
      Completes (.movLLoadInc m n) s (Leaves s (if n = m then withReg s.r n (v)
        else withReg (withReg s.r n (v)) m (s.r m + 4#32)) s.sr s))

/-- When the effective address can be stored to, MOV.B, MOV.W and MOV.L to @Rn, @(R0,Rn), @(disp,GBR) and @(disp,Rn)
complete: the low byte, the low word or the four bytes of the source are stored there in the byte order of the
machine, and every other byte and every register is unchanged. Accesses to a device region and to a mapped register
are stated in DeviceAccesses and ControlRegistersMapped. (R300, R302, R303, R304, R314, R315, R316, R326, R327, R328,
44_data_transfer.md section 5.) -/
def Obligations.Stores : Prop :=
  ∀ (s : State) (m n : Reg) (e : BitVec 8) (d : BitVec 4),
    (Storable s (s.r n) 1 →
      Completes (.movBStore m n) s (LeavesStored s s.r s.sr s (s.r n) [(s.r m).setWidth 8])) ∧
    (Storable s (s.r n + s.r 0) 1 →
      Completes (.movBStoreIdx m n) s (LeavesStored s s.r s.sr s (s.r n + s.r 0) [(s.r m).setWidth 8])) ∧
    (Storable s (s.gbr + e.setWidth 32) 1 →
      Completes (.movBStoreGbr e) s (LeavesStored s s.r s.sr s (s.gbr + e.setWidth 32) [(s.r 0).setWidth 8])) ∧
    (Storable s (s.r n + d.setWidth 32) 1 →
      Completes (.movBStoreDisp d n) s (LeavesStored s s.r s.sr s (s.r n + d.setWidth 32) [(s.r 0).setWidth 8])) ∧
    (Storable s (s.r n) 2 →
      Completes (.movWStore m n) s (LeavesStored s s.r s.sr s (s.r n) (halfBytes s ((s.r m).setWidth 16)))) ∧
    (Storable s (s.r n + s.r 0) 2 →
      Completes (.movWStoreIdx m n) s
        (LeavesStored s s.r s.sr s (s.r n + s.r 0) (halfBytes s ((s.r m).setWidth 16)))) ∧
    (Storable s (s.gbr + 2#32 * e.setWidth 32) 2 →
      Completes (.movWStoreGbr e) s
        (LeavesStored s s.r s.sr s (s.gbr + 2#32 * e.setWidth 32) (halfBytes s ((s.r 0).setWidth 16)))) ∧
    (Storable s (s.r n + 2#32 * d.setWidth 32) 2 →
      Completes (.movWStoreDisp d n) s
        (LeavesStored s s.r s.sr s (s.r n + 2#32 * d.setWidth 32) (halfBytes s ((s.r 0).setWidth 16)))) ∧
    (Storable s (s.r n) 4 →
      Completes (.movLStore m n) s (LeavesStored s s.r s.sr s (s.r n) (longBytes s (s.r m)))) ∧
    (Storable s (s.r n + s.r 0) 4 →
      Completes (.movLStoreIdx m n) s (LeavesStored s s.r s.sr s (s.r n + s.r 0) (longBytes s (s.r m)))) ∧
    (Storable s (s.gbr + 4#32 * e.setWidth 32) 4 →
      Completes (.movLStoreGbr e) s
        (LeavesStored s s.r s.sr s (s.gbr + 4#32 * e.setWidth 32) (longBytes s (s.r 0)))) ∧
    (Storable s (s.r n + 4#32 * d.setWidth 32) 4 →
      Completes (.movLStoreDisp m d n) s
        (LeavesStored s s.r s.sr s (s.r n + 4#32 * d.setWidth 32) (longBytes s (s.r m))))

/-- When the address Rn less the size can be stored to, MOV.B, MOV.W and MOV.L to @-Rn complete: the value Rm had before
is stored there, Rn goes down by the size, and every other byte and register is unchanged. (R300, R308, R309, R310.) -/
def Obligations.StoresPreDecrement : Prop :=
  ∀ (s : State) (m n : Reg),
    (Storable s (s.r n - 1#32) 1 →
      Completes (.movBStoreDec m n) s (LeavesStored s (withReg s.r n (s.r n - 1#32)) s.sr s
        (s.r n - 1#32) [(s.r m).setWidth 8])) ∧
    (Storable s (s.r n - 2#32) 2 →
      Completes (.movWStoreDec m n) s (LeavesStored s (withReg s.r n (s.r n - 2#32)) s.sr s
        (s.r n - 2#32) (halfBytes s ((s.r m).setWidth 16)))) ∧
    (Storable s (s.r n - 4#32) 4 →
      Completes (.movLStoreDec m n) s (LeavesStored s (withReg s.r n (s.r n - 4#32)) s.sr s
        (s.r n - 4#32) (longBytes s (s.r m))))

/-- MOVLI.L, where the longword v at Rm can be loaded, leaves v in R0 and LDST set; MOVCO.L with LDST set, where Rn can be
stored to, stores R0 there, sets T and clears LDST; with LDST clear it clears T and stores nothing, whatever Rn holds;
nothing else changes. (R353, R354, R81.) -/
def Obligations.LinkedAccess : Prop :=
  ∀ (s : State) (m n : Reg),
    (∀ v : Word, Loads s (s.r m) (longBytes s v) →
      Completes (.movliL m) s (Leaves s (withReg s.r 0 v) s.sr { s with ldst := true })) ∧
    (s.ldst = true → Storable s (s.r n) 4 →
      Completes (.movcoL n) s
        (LeavesStored s s.r (srT s.sr true) { s with ldst := false } (s.r n) (longBytes s (s.r 0)))) ∧
    (s.ldst = false →
      Completes (.movcoL n) s (Leaves s s.r (srT s.sr false) { s with ldst := false }))

/-- When each of the four bytes at Rm, Rm + 1, Rm + 2 and Rm + 3 may be accessed in the mode, lies in ram or rom, and
holds the bytes of v in the byte order of the machine, MOVUA.L @Rm,R0 and MOVUA.L @Rm+,R0 complete whatever the
alignment of Rm: R0 gets v, and the post-increment form adds 4 to Rm unless m = 0; nothing else changes. The same
holds where Rm lies in a device region, each of the four bytes may be read and the host answers v to a read of four
bytes at Rm, whose answer is used up (log 32). And where no register is mapped in the four bytes and one of them lies
in no region, both forms fault as unmapped at the first such byte that the bytes before it let be reached, with the
first byte in memory or in a device region. (R76, R355, R356, R83, R475.) -/
def Obligations.UnalignedLoad : Prop :=
  ∀ (s : State) (m : Reg),
    let loaded : Word → State → Prop := fun v u =>
      Completes (.movuaL m) s (Leaves s (withReg s.r 0 v) s.sr u) ∧
      Completes (.movuaLInc m) s (Leaves s (if m = 0 then withReg s.r 0 v
        else withReg (withReg s.r 0 v) m (s.r m + 4#32)) s.sr u)
    (∀ v : Word, (∀ k < 4, s.mayAccess (s.r m + BitVec.ofNat 32 k) = true ∧
      s.readableAt (s.r m + BitVec.ofNat 32 k) = true ∧
      s.holds (s.r m + BitVec.ofNat 32 k) = (longBytes s v)[k]?) → loaded v s) ∧
    (∀ v : Word, (∀ k < 4, s.mayAccess (s.r m + BitVec.ofNat 32 k) = true) → s.isDevice (s.r m) = true →
      HostReadable s (s.r m) 4 → s.host.head? = some (.read (s.r m) 4 v) →
      loaded v { s with host := s.host.tail }) ∧
    (∀ k < 4, (∀ j < 4, s.mayAccess (s.r m + BitVec.ofNat 32 j) = true ∧
      isControl (s.r m + BitVec.ofNat 32 j) = false) →
      ((∀ j < k, s.readableAt (s.r m + BitVec.ofNat 32 j) = true) ∨
        (s.isDevice (s.r m) = true ∧ HostReadable s (s.r m) k)) →
      regionKind s.params.memMap (s.r m + BitVec.ofNat 32 k) = none →
      exec (.movuaL m) s = .fault (.unmapped (s.r m + BitVec.ofNat 32 k)) ∧
      exec (.movuaLInc m) s = .fault (.unmapped (s.r m + BitVec.ofNat 32 k)))

/-- MOVCA.L, where Rn can be stored to, stores R0 there; OCBI completes where Rn may be accessed and lies in a ram or
device region. No general register changes, the block joins dirty_code, every byte outside the 32-byte block of Rn is
unchanged, every byte of the block holds some value, and PTEH, PTEL and MMUCR, which are mapped in the block
H'FF000000, change only if that is the block. Which value a byte of the block or such a register then holds is not
said (the spec makes them unwritten; that the model makes them free values, and keeps the read-only registers, is its
choice, logs 14, 15 and 19). (R352, R357, R350, R90.) -/
def Obligations.BlocksLost : Prop :=
  ∀ (s : State) (n : Reg),
    let lost : State → Prop := fun t => Registers s s.r t ∧ t.sr = s.sr ∧
      SameRest { s with freeCount := t.freeCount, pteh := t.pteh, ptel := t.ptel, mmucr := t.mmucr } t ∧
      (blockOf (s.r n) ≠ 0xFF000000#32 → t.pteh = s.pteh ∧ t.ptel = s.ptel ∧ t.mmucr = s.mmucr) ∧
      DirtiedAt s t (s.r n) ∧ Advanced s t ∧
      ∀ a : Word, (blockOf a ≠ blockOf (s.r n) → t.holds a = s.holds a) ∧
        (blockOf a = blockOf (s.r n) → t.holds a ≠ none)
    (Storable s (s.r n) 4 →
      Completes (.movcaL n) s (fun t => lost t ∧
        ∀ k < 4, t.holds (s.r n + BitVec.ofNat 32 k) = (longBytes s (s.r 0))[k]?)) ∧
    (s.mayAccess (s.r n) = true →
      (regionKind s.params.memMap (s.r n) = some .ram ∨ regionKind s.params.memMap (s.r n) = some .device) →
      Completes (.ocbi n) s lost)

/-- OCBP and OCBWB complete where Rn may be accessed and lies in a region of MEMMAP, PREF and SYNCO in every state, PREFI
outside a delay slot whatever Rn holds, and change nothing but the pc; ICBI, outside a delay slot where Rn may be
accessed and lies in a region, takes the block of Rn out of dirty_code and changes nothing else. (R351, R358, R359,
R360, R361, R362, R350, R92.) -/
def Obligations.CacheWithoutEffect : Prop :=
  ∀ (s : State) (n : Reg),
    (s.mayAccess (s.r n) = true → regionKind s.params.memMap (s.r n) ≠ none →
      Completes (.ocbp n) s (Leaves s s.r s.sr s) ∧ Completes (.ocbwb n) s (Leaves s s.r s.sr s)) ∧
    Completes (.pref n) s (Leaves s s.r s.sr s) ∧ Completes .synco s (Leaves s s.r s.sr s) ∧
    (s.pending = none → Completes (.prefi n) s (Leaves s s.r s.sr s)) ∧
    (s.pending = none → s.mayAccess (s.r n) = true → regionKind s.params.memMap (s.r n) ≠ none →
      Completes (.icbi n) s (fun t => Registers s s.r t ∧ t.sr = s.sr ∧ SameRest s t ∧ SameMemory s t ∧ Advanced s t ∧
        ∀ b : Nat, b ∈ t.dirtyCode ↔ b ∈ s.dirtyCode ∧ b ≠ (blockOf (s.r n)).toNat))

/-- ROTCL, ROTCR, ROTL, ROTR, SHAL, SHAR, SHLL and SHLR complete in every state: Rn is shifted or rotated by one bit as
its rule says and T gets the bit that left it; nothing else changes; the word of each, by its code, decodes to it;
timing is not in the model. (R371, R372, R373, R374, R376, R377, R379, R383.) -/
def Obligations.OneBitShifts : Prop :=
  ∀ (s : State) (n : Reg),
    Completes (.rotcl n) s (Leaves s (withReg s.r n ((s.r n <<< 1) ||| (s.sr &&& 1#32))) (srT s.sr (s.r n).msb) s) ∧
    Completes (.rotcr n) s
      (Leaves s (withReg s.r n ((s.r n >>> 1) ||| ((s.sr &&& 1#32) <<< 31))) (srT s.sr ((s.r n).getLsbD 0)) s) ∧
    Completes (.rotl n) s (Leaves s (withReg s.r n ((s.r n <<< 1) ||| (s.r n >>> 31))) (srT s.sr (s.r n).msb) s) ∧
    Completes (.rotr n) s
      (Leaves s (withReg s.r n ((s.r n >>> 1) ||| (s.r n <<< 31))) (srT s.sr ((s.r n).getLsbD 0)) s) ∧
    Completes (.shal n) s (Leaves s (withReg s.r n (s.r n <<< 1)) (srT s.sr (s.r n).msb) s) ∧
    Completes (.shar n) s
      (Leaves s (withReg s.r n ((s.r n >>> 1) ||| (s.r n &&& 0x80000000#32))) (srT s.sr ((s.r n).getLsbD 0)) s) ∧
    Completes (.shll n) s (Leaves s (withReg s.r n (s.r n <<< 1)) (srT s.sr (s.r n).msb) s) ∧
    Completes (.shlr n) s (Leaves s (withReg s.r n (s.r n >>> 1)) (srT s.sr ((s.r n).getLsbD 0)) s) ∧
    decode (word4 0x4 n 0x2 0x4) = .ok (.rotcl n) ∧
    decode (word4 0x4 n 0x2 0x5) = .ok (.rotcr n) ∧
    decode (word4 0x4 n 0x0 0x4) = .ok (.rotl n) ∧
    decode (word4 0x4 n 0x0 0x5) = .ok (.rotr n) ∧
    decode (word4 0x4 n 0x2 0x0) = .ok (.shal n) ∧
    decode (word4 0x4 n 0x2 0x1) = .ok (.shar n) ∧
    decode (word4 0x4 n 0x0 0x0) = .ok (.shll n) ∧
    decode (word4 0x4 n 0x0 0x1) = .ok (.shlr n)

/-- SHLL2, SHLL8, SHLL16, SHLR2, SHLR8 and SHLR16 shift Rn by 2, 8 or 16; SHAD and SHLD shift it left by Rm[4:0] when Rm
is not negative, and else right by 32 - Rm[4:0], SHAD rounding the signed value down, SHLD the unsigned one; SR and
everything else are unchanged. (R370, R375, R378, R380, R381, R382, R384, R385, R386.) -/
def Obligations.MultiBitShifts : Prop :=
  ∀ (s : State) (m n : Reg),
    Completes (.shll2 n) s (Leaves s (withReg s.r n (s.r n * 4#32)) s.sr s) ∧
    Completes (.shll8 n) s (Leaves s (withReg s.r n (s.r n * 256#32)) s.sr s) ∧
    Completes (.shll16 n) s (Leaves s (withReg s.r n (s.r n * 65536#32)) s.sr s) ∧
    Completes (.shlr2 n) s (Leaves s (withReg s.r n (BitVec.ofNat 32 ((s.r n).toNat / 2 ^ 2))) s.sr s) ∧
    Completes (.shlr8 n) s (Leaves s (withReg s.r n (BitVec.ofNat 32 ((s.r n).toNat / 2 ^ 8))) s.sr s) ∧
    Completes (.shlr16 n) s (Leaves s (withReg s.r n (BitVec.ofNat 32 ((s.r n).toNat / 2 ^ 16))) s.sr s) ∧
    (let k : Nat := (s.r m).toNat % 32
     Completes (.shad m n) s (Leaves s (withReg s.r n
       (if (s.r m).msb then BitVec.ofInt 32 ((s.r n).toInt / 2 ^ (32 - k)) else BitVec.ofNat 32 ((s.r n).toNat
         * 2 ^ k)))
       s.sr s)) ∧
    (let k : Nat := (s.r m).toNat % 32
     Completes (.shld m n) s (Leaves s (withReg s.r n
       (if (s.r m).msb then BitVec.ofNat 32 ((s.r n).toNat / 2 ^ (32 - k)) else BitVec.ofNat 32 ((s.r n).toNat
         * 2 ^ k)))
       s.sr s))

/-- With SR.DSP = 1 CLRDMXY clears DMX and DMY, SETDMX sets DMX and clears DMY, SETDMY sets DMY and clears DMX; no other
SR bit and nothing else changes. (R34, R390, R391, R416, R417.) -/
def Obligations.ModuloBits : Prop :=
  ∀ s : State, s.dsp = true →
    Completes .clrdmxy s (Leaves s s.r (s.sr &&& 0xFFFFF3FF#32) s) ∧
    Completes .setdmx s (Leaves s s.r ((s.sr &&& 0xFFFFF3FF#32) ||| 0x00000400#32) s) ∧
    Completes .setdmy s (Leaves s s.r ((s.sr &&& 0xFFFFF3FF#32) ||| 0x00000800#32) s)

/-- In privileged mode or with SR.DSP = 1: outside a delay slot, LDC Rm,SR completes in privileged mode with SR = Rm and
H'7FFF1FFF, and in user DSP mode with SR = (SR and H'700003F3) or (Rm and H'0FFF1C0C), no physical register changing;
LDC.L @Rm+,SR, where the longword v at Rm can be loaded, completes so with v, and Rm + 4 in Rm, when m >= 8 or the
current bank does not change; when it would change, with m < 8, it is refused (the model's choice, log 24). STC SR,Rn
leaves all 32 bits of SR in Rn, and STC.L SR,@-Rn stores them at Rn - 4, where that address can be stored to, with Rn
down by 4; nothing else changes. (R21, R37, R392, R396, R420, R424.) -/
def Obligations.StatusRegisterMoves : Prop :=
  ∀ (s : State) (m n : Reg), (s.md || s.dsp) = true →
    (let load : Word → Word := fun v => if s.md then v &&& 0x7FFF1FFF#32
       else (s.sr &&& 0x700003F3#32) ||| (v &&& 0x0FFF1C0C#32)
     (s.pending = none →
       Completes (.ldcSr m) s (fun t => t.sr = load (s.r m) ∧ SameBanks s t ∧ SameRest s t ∧ SameMemory s t ∧
         t.dirtyCode = s.dirtyCode ∧ Advanced s t)) ∧
     (∀ v : Word, s.pending = none → Loads s (s.r m) (longBytes s v) →
       ((8 : Reg) ≤ m ∨ { s with sr := load v }.bankSel = s.bankSel →
         Completes (.ldcLSr m) s (fun t => t.sr = load v ∧ t.r m = s.r m + 4#32 ∧ SameRest s t ∧ SameMemory s t ∧
           (∀ i, i ≠ m → t.r i = { s with sr := load v }.r i) ∧ (∀ b, t.bankR b = { s with sr := load v }.bankR b) ∧
           t.dirtyCode = s.dirtyCode ∧ Advanced s t)) ∧
       (m < (8 : Reg) → { s with sr := load v }.bankSel ≠ s.bankSel →
         exec (.ldcLSr m) s = .refused .bankSwitchOfPointer))) ∧
    Completes (.stcSr n) s (Leaves s (withReg s.r n s.sr) s.sr s) ∧
    (Storable s (s.r n - 4#32) 4 →
      Completes (.stcLSr n) s
        (LeavesStored s (withReg s.r n (s.r n - 4#32)) s.sr s (s.r n - 4#32) (longBytes s s.sr)))

/-- With SR.DSP = 1 and a count that is not 0, SETRC and LDRC, of Rm[11:0] or of the immediate, complete: RC gets the
count, RF1 and RF0 hold whatever was drawn, every other SR bit is unchanged, LDRC also sets bit 0 of RE, and nothing
else the spec names changes; a count of 0 is refused. (R35, R36, R400, R401, R418, R419.) -/
def Obligations.RepeatCounts : Prop :=
  ∀ (s : State) (m : Reg) (i : BitVec 8), s.dsp = true →
    (((s.r m).setWidth 12) ≠ 0#12 → Completes (.setrc m) s (fun t =>
      Registers s s.r t ∧ t.sr &&& 0xFFFFFFF3#32 = ((s.sr &&& 0xF000FFF3#32) |||
        ((((s.r m).setWidth 12)).setWidth 32 <<< 16)) ∧
      SameRest { s with freeCount := t.freeCount } t ∧ SameMemory s t ∧ t.dirtyCode = s.dirtyCode ∧ Advanced s t)) ∧
    ((i.setWidth 12) ≠ 0#12 → Completes (.setrcImm i) s (fun t =>
      Registers s s.r t ∧ t.sr &&& 0xFFFFFFF3#32 = ((s.sr &&& 0xF000FFF3#32) |||
        (((i.setWidth 12)).setWidth 32 <<< 16)) ∧
      SameRest { s with freeCount := t.freeCount } t ∧ SameMemory s t ∧ t.dirtyCode = s.dirtyCode ∧ Advanced s t)) ∧
    (((s.r m).setWidth 12) ≠ 0#12 → Completes (.ldrc m) s (fun t =>
      Registers s s.r t ∧ t.sr &&& 0xFFFFFFF3#32 = ((s.sr &&& 0xF000FFF3#32) |||
        ((((s.r m).setWidth 12)).setWidth 32 <<< 16)) ∧
      SameRest { s with re := s.re ||| 1#32, freeCount := t.freeCount } t ∧ SameMemory s t ∧
        t.dirtyCode = s.dirtyCode ∧ Advanced s t)) ∧
    ((i.setWidth 12) ≠ 0#12 → Completes (.ldrcImm i) s (fun t =>
      Registers s s.r t ∧ t.sr &&& 0xFFFFFFF3#32 = ((s.sr &&& 0xF000FFF3#32) |||
        (((i.setWidth 12)).setWidth 32 <<< 16)) ∧
      SameRest { s with re := s.re ||| 1#32, freeCount := t.freeCount } t ∧ SameMemory s t ∧
        t.dirtyCode = s.dirtyCode ∧ Advanced s t)) ∧
    ((s.r m).setWidth 12 = 0#12 → exec (.setrc m) s = .refused .repeatCountZero ∧
      exec (.ldrc m) s = .refused .repeatCountZero) ∧
    (i = 0#8 → exec (.setrcImm i) s = .refused .repeatCountZero ∧ exec (.ldrcImm i) s = .refused .repeatCountZero)

/-- Raising an exception with BL = 0 and outside RTE's slot saves SR in SSR, R15 in SGR and the restart address in SPC
(the branch for an exception in its slot, pc + 2 for TRAPA, else pc), sets MD, RB and BL, writes the code of EXC_TABLE
to EXPEVT, clears LDST and asleep and goes to VBR plus the table's offset; nothing else changes. In the default table,
which is the spec's (R452; log 9), the codes are H'160, H'180, H'1A0, H'0E0, H'0E0 and H'100 and the offset is H'100.
(R451, R452, R464, R466, R467.) -/
def Obligations.ExceptionEntry : Prop :=
  (∀ (s : State) (e : Exc), s.inRteSlot = false → s.bl = false →
    ∃ t, raise e s = .next t ∧
      Entered s (excEntry s.params.excTable e).code
        (match s.pending with
          | some p => p.branch
          | none => if e = .unconditionalTrap then s.pc + 2#32 else s.pc)
        (excEntry s.params.excTable e).offset t) ∧
    (∀ e : Exc, (excEntry defaultExcTable e).offset = 0x100#32 ∧ (excEntry defaultExcTable e).code =
      match e with
      | .unconditionalTrap => 0x160#32
      | .generalIllegal => 0x180#32
      | .slotIllegal => 0x1A0#32
      | .instructionAddressError => 0x0E0#32
      | .dataAddressErrorRead => 0x0E0#32
      | .dataAddressErrorWrite => 0x100#32)

/-- Raising any exception with BL = 1 is the terminal fault 'exception with BL = 1', TRAPA's included, and in the delay
slot of an RTE the terminal fault 'exception in RTE delay slot': no next state exists. That these are terminal faults
is the spec's own decision (R461, R464; logs 20, 21). (R461, R464, R256, R453.) -/
def Obligations.ExceptionsThatEndTheRun : Prop :=
  ∀ (s : State) (e : Exc),
    (s.inRteSlot = true → raise e s = .fault (.exceptionInRteSlot e)) ∧
    (s.inRteSlot = false → s.bl = true → raise e s = .fault (.exceptionWithBlSet e)) ∧
    ∀ i : BitVec 8, s.bl = true → s.pending = none →
      exec (.trapa i) s = .fault (.exceptionWithBlSet .unconditionalTrap)

/-- A privileged instruction with MD = 0, an instruction that SR.DSP enables with DSP = 0, and an SR form with MD = 0 and
DSP = 0 raise the general illegal instruction exception, or the slot illegal instruction exception in a delay slot;
nothing else of the instruction happens. Outside a delay slot no other instruction does so: if the mode condition
holds and a next state is an exception entry, its code is that of TRAPA or of an address error. (R123, R454, R455,
R470, R390.) -/
def Obligations.ModeConditions : Prop :=
  ∀ (s : State) (i : Instr),
    (modeAllows i s = false → exec i s = raise (if s.pending.isSome then .slotIllegal else .generalIllegal) s) ∧
    (modeAllows i s = true → s.pending = none → ∀ t : State, exec i s = .next t →
      t.expevt = s.expevt ∨ t.expevt = s.params.excTable.dataAddressErrorRead.code ∨
        t.expevt = s.params.excTable.dataAddressErrorWrite.code ∨ t.expevt =
          s.params.excTable.unconditionalTrap.code ∨
        t.expevt = s.params.excTable.instructionAddressError.code)

/-- In a delay slot, executing a branch, TRAPA, a PC-relative data instruction, LDC or LDC.L to SR, ICBI or PREFI, or an
instruction the mode rejects raises the slot illegal instruction exception; so does a word of SLOT_ILLEGAL_EXTRA. No
other instruction does: it never ends in that exception, or in the fault of it, and a next state of it has EXPEVT as
it was or with the code of a data address error. (R124, R203, R455.) -/
def Obligations.SlotIllegalSet : Prop :=
  ∀ (s : State) (i : Instr), s.pending.isSome = true →
    (slotIllegalAlways i = true ∨ modeAllows i s = false → exec i s = raise .slotIllegal s) ∧
    (∀ w : Half, decode w = .ok i → matchesAny s.params.slotIllegalExtra w = true →
      runWord w s = raise .slotIllegal s) ∧
    (slotIllegalAlways i = false → modeAllows i s = true →
      exec i s ≠ .fault (.exceptionWithBlSet .slotIllegal) ∧ exec i s ≠ .fault (.exceptionInRteSlot .slotIllegal) ∧
      ∀ t : State, exec i s = .next t → t.expevt = s.expevt ∨ t.expevt = s.params.excTable.dataAddressErrorRead.code ∨
        t.expevt = s.params.excTable.dataAddressErrorWrite.code)

/-- A word access at an odd address and a longword access at an address that is not a multiple of 4 end in the data
address error, read or write. An instruction that the mode and the slot let execute, of any form of MOV.W or MOV.L,
MAC.W, MAC.L, LDC.L, LDS.L, STC.L, STS.L, MOVLI.L, MOVCA.L or MOVCO.L with LDST set, raises it from the unchanged
state when the address of its first access is misaligned, so a pointer that the form would update keeps its value; and
MAC.W and MAC.L raise it so when the first operand can be loaded and the address of the second is misaligned. (R74,
R456, R465, R79, R165, R166, R353.) -/
def Obligations.MisalignedAccess : Prop :=
  ∀ s : State,
    (∀ (a : Word) (h : Half) (v : Word),
      (a.toNat % 2 ≠ 0 → readHalf s a = .error (.exc .dataAddressErrorRead) ∧
        writeHalf s a h = .error (.exc .dataAddressErrorWrite)) ∧
      (a.toNat % 4 ≠ 0 → readLong s a = .error (.exc .dataAddressErrorRead) ∧
        writeLong s a v = .error (.exc .dataAddressErrorWrite))) ∧
    (∀ (i : Instr) (e : Exc) (size : Nat) (a : Word), firstAccess i s = some (e, size, a) → mayExecute i s →
      a.toNat % size ≠ 0 → exec i s = raise e s) ∧
    (∀ (m n : Reg), m ≠ n →
      (∀ v : Half, Loads s (s.r n) (halfBytes s v) → (s.r m).toNat % 2 ≠ 0 →
        exec (.macW m n) s = raise .dataAddressErrorRead s) ∧
      (∀ v : Word, Loads s (s.r n) (longBytes s v) → (s.r m).toNat % 4 ≠ 0 →
        exec (.macL m n) s = raise .dataAddressErrorRead s))

/-- In user mode every data access at an address with bit 31 set ends in the data address error, on a read (a byte, a
word, a longword, or a byte that a read-modify-write instruction checks as a load and a store) or on a write, whatever
the alignment; so does MOVUA.L when any of its four bytes has such an address. Every instruction that makes an access
and that the mode and the slot let execute raises it from the unchanged state when its first access is there. A fetch
there raises the instruction address error; ICBI outside a slot raises the instruction address error, OCBI the data
address error on a write, OCBP and OCBWB on a read, and PREF completes. (R83, R473, R456, R457, R355, R76.) -/
def Obligations.PrivilegedAreaClosed : Prop :=
  ∀ (s : State) (a : Word) (n : Reg) (b : Byte) (h : Half) (v : Word), s.md = false →
    (a.msb = true →
      readByte s a = .error (.exc .dataAddressErrorRead) ∧ readHalf s a = .error (.exc .dataAddressErrorRead) ∧
      readLong s a = .error (.exc .dataAddressErrorRead) ∧
      readByteForUpdate s a = .error (.exc .dataAddressErrorRead) ∧
      writeByte s a b = .error (.exc .dataAddressErrorWrite) ∧
      writeHalf s a h = .error (.exc .dataAddressErrorWrite) ∧
      writeLong s a v = .error (.exc .dataAddressErrorWrite)) ∧
    (∀ k < 4, (a + BitVec.ofNat 32 k).msb = true → readUnaligned s a = .error (.exc .dataAddressErrorRead)) ∧
    (∀ k < 4, (s.r n + BitVec.ofNat 32 k).msb = true →
      exec (.movuaL n) s = raise .dataAddressErrorRead s ∧ exec (.movuaLInc n) s = raise .dataAddressErrorRead s) ∧
    (∀ (i : Instr) (e : Exc) (size : Nat) (x : Word), firstAccess i s = some (e, size, x) → mayExecute i s →
      x.msb = true → exec i s = raise e s) ∧
    (s.pc.msb = true → s.pc.toNat % 2 = 0 → s.inRteSlot = false →
      fetch s = .error (.exc .instructionAddressError)) ∧
    ((s.r n).msb = true → s.pending = none → exec (.icbi n) s = raise .instructionAddressError s) ∧
    ((s.r n).msb = true →
      exec (.ocbi n) s = raise .dataAddressErrorWrite s ∧ exec (.ocbp n) s = raise .dataAddressErrorRead s ∧
      exec (.ocbwb n) s = raise .dataAddressErrorRead s ∧ Completes (.pref n) s (Leaves s s.r s.sr s))

/-- In privileged mode MOV.L from H'FF000000, H'FF000004, H'FF000010, H'FF000020, H'FF000024 and H'FF000028 reads PTEH,
PTEL, MMUCR, TRA, EXPEVT and INTEVT; a MOV.L to H'FF000000 or H'FF000004 writes all 32 bits of PTEH or PTEL, one to
H'FF000010 writes all 32 bits of MMUCR, or is refused where bit 0 of the value is set, and one to TRA, EXPEVT or
INTEVT is a fault. The addresses other than PTEH's, and that PTEH and PTEL are writable and TRA, EXPEVT and INTEVT
read-only, are the model's (log 19); that MMUCR takes a store, and that the store that would enable the MMU is
refused, are the model's too (log 18). (R84, R46, R47, R48, R85.) -/
def Obligations.ControlRegistersMapped : Prop :=
  ∀ (s : State) (m n : Reg), s.md = true →
    (s.r m = 0xFF000000#32 → Completes (.movLLoad m n) s (Leaves s (withReg s.r n s.pteh) s.sr s)) ∧
    (s.r m = 0xFF000004#32 → Completes (.movLLoad m n) s (Leaves s (withReg s.r n s.ptel) s.sr s)) ∧
    (s.r m = 0xFF000010#32 → Completes (.movLLoad m n) s (Leaves s (withReg s.r n s.mmucr) s.sr s)) ∧
    (s.r m = 0xFF000020#32 → Completes (.movLLoad m n) s (Leaves s (withReg s.r n s.tra) s.sr s)) ∧
    (s.r m = 0xFF000024#32 → Completes (.movLLoad m n) s (Leaves s (withReg s.r n s.expevt) s.sr s)) ∧
    (s.r m = 0xFF000028#32 → Completes (.movLLoad m n) s (Leaves s (withReg s.r n s.intevt) s.sr s)) ∧
    (s.r n = 0xFF000000#32 → Completes (.movLStore m n) s (fun t =>
      Registers s s.r t ∧ t.sr = s.sr ∧ SameRest { s with pteh := s.r m } t ∧ SameMemory s t ∧ DirtiedAt s t (s.r n) ∧
      Advanced s t)) ∧
    (s.r n = 0xFF000004#32 → Completes (.movLStore m n) s (fun t =>
      Registers s s.r t ∧ t.sr = s.sr ∧ SameRest { s with ptel := s.r m } t ∧ SameMemory s t ∧ DirtiedAt s t (s.r n) ∧
      Advanced s t)) ∧
    (s.r n = 0xFF000010#32 → (s.r m).getLsbD 0 = false → Completes (.movLStore m n) s (fun t =>
      Registers s s.r t ∧ t.sr = s.sr ∧ SameRest { s with mmucr := s.r m } t ∧ SameMemory s t ∧
        DirtiedAt s t (s.r n) ∧
      Advanced s t)) ∧
    (s.r n = 0xFF000010#32 → (s.r m).getLsbD 0 = true → exec (.movLStore m n) s = .refused .mmuEnable) ∧
    (s.r n = 0xFF000020#32 ∨ s.r n = 0xFF000024#32 ∨ s.r n = 0xFF000028#32 →
      exec (.movLStore m n) s = .fault (.readOnlyRegister (s.r n)))

/-- At an instruction boundary where the run has not ended, with RC = 0 and a request of the oracle: with BL = 0 and its
level above IMASK the step is the interrupt entry, which saves SR, pc and R15, sets MD, RB and BL, leaves EXPEVT,
writes the code to INTEVT and goes to VBR plus the offset; the code is the request's at the offset of interrupts, but
for level 16 the code and offset of the non-maskable interrupt, H'1C0 and H'600 in the default table. With BL = 1 or a
level not above IMASK a machine that is awake steps as with no request, the answer used up; asleep with BL = 0 it
changes nothing but the answer used up; asleep with BL = 1 it is refused. In a delay slot no request is sampled. That
the oracle is a list of answers is the model's (log 10); the codes and offsets are the spec's decision (log 9). (R463,
R451, R450, R452.) -/
def Obligations.InterruptAcceptance : Prop :=
  (∀ (s : State) (q : IrqRequest), s.irqNow = some q →
    (s.pending = none → s.pc ∉ s.params.ends → s.rc = 0 →
      let code : Word := if q.level < 16 then q.code else s.params.excTable.nonMaskableInterrupt.code
      let offset : Word := if q.level < 16 then s.params.excTable.interruptOffset
        else s.params.excTable.nonMaskableInterrupt.offset
      (s.bl = false → s.imask.toNat < q.level →
        ∃ t, step s = .next t ∧ t.intevt = code ∧ t.irq = s.irq.tail ∧
          Entered { s with intevt := code, irq := s.irq.tail } s.expevt s.pc offset t) ∧
      (s.asleep = false → s.bl = true ∨ q.level ≤ s.imask.toNat →
        step s = step { s with irq := none :: s.irq.tail } ∧ step s = runInstr { s with irq := s.irq.tail }) ∧
      (s.asleep = true → s.bl = false → q.level ≤ s.imask.toNat → step s = .next { s with irq := s.irq.tail }) ∧
      (s.asleep = true → s.bl = true → step s = .refused .interruptDuringSleepWithBl)) ∧
    (s.pending ≠ none → step s = runInstr s)) ∧
    defaultExcTable.interruptOffset = 0x600#32 ∧ defaultExcTable.nonMaskableInterrupt = ⟨0x1C0#32, 0x600#32⟩

/-- At an instruction boundary where the run has not ended, with SR.RC not 0, the step is refused, whatever the oracle
answers and whether or not the machine is asleep. (R440, R450, R478.) -/
def Obligations.RepeatLoopRefused : Prop :=
  ∀ s : State, s.pending = none → ¬ RunEnded s → s.rc ≠ 0 → step s = .refused .repeatLoopArmed

/-- From every state in user mode, a step that ends in privileged mode is an exception or interrupt entry: SSR holds the
old SR, SGR the old R15, RB and BL are set, and the pc is at VBR plus an offset of EXC_TABLE with the code of that row
in EXPEVT, or for an interrupt in INTEVT. (R472, R469, R471.) -/
def Obligations.TransferToPrivileged : Prop :=
  ∀ s t : State, s.md = false → step s = .next t → t.md = true →
    t.ssr = s.sr ∧ t.sr = s.sr ||| 0x70000000#32 ∧ t.sgr = s.r 15 ∧ t.pending = none ∧
      ((∃ q : IrqRequest, s.irqNow = some q ∧ t.pc = s.vbr + (intEntry s.params.excTable q).offset ∧
          t.intevt = (intEntry s.params.excTable q).code) ∨
        ∃ e : Exc, t.pc = s.vbr + (excEntry s.params.excTable e).offset ∧
          t.expevt = (excEntry s.params.excTable e).code)

/-- From every state in user mode, a step changes no byte whose address has bit 31 set, and none of VBR, DBR, PTEH, PTEL,
MMUCR and the TLB; and if the step ends in user mode, not SSR, SPC or SGR, nor a register of BANK1, nor SR.MD, SR.RB,
SR.BL or SR.IMASK. (R83, R469, R470, R473.) -/
def Obligations.UserModeIsolation : Prop :=
  ∀ s t : State, s.md = false → step s = .next t →
    (∀ a : Word, a.msb = true → t.holds a = s.holds a) ∧
    t.vbr = s.vbr ∧ t.dbr = s.dbr ∧ t.pteh = s.pteh ∧ t.ptel = s.ptel ∧ t.mmucr = s.mmucr ∧ t.tlb = s.tlb ∧
    t.bank1 = s.bank1 ∧
    (t.md = false → t.ssr = s.ssr ∧ t.spc = s.spc ∧ t.sgr = s.sgr ∧ t.rb = s.rb ∧ t.bl = s.bl ∧ t.imask = s.imask)

/-- For every state that meets the invariant (memory, dirty_code and the TLB in canonical form; the reserved bits of SR,
DSR and TRA 0; A0G the sign of A0; the MMU disabled; a pending branch with its slot at the next address; asleep only
at boundaries), a step that answers a next state leaves one that meets it. The canonical forms and MMUCR bit 0 are the
model's (logs 4, 16 to 18). (R37, R46, R51, R52, R57, R58, R85, R89.) -/
def Obligations.InvariantKept : Prop :=
  ∀ s t : State, s.Inv → step s = .next t → t.Inv

/-- The invariant that every step keeps, and the premises R475 names for a launch, hold of the machine right after reset;
and they hold of it after a launch of any image, oracle and host answers and any parameters whose END addresses are
even. What the invariant says there of TRA, DSR, A0 and A0G rests on the zeros the model gives registers that R59
leaves unwritten (log 5), of MMUCR on its presumed reset value (log 18), and of the TLB on its being empty (log 17);
the form of a launch is the model's (log 30). (R59, R500, R475, R85.) -/
def Obligations.InvariantAtReset : Prop :=
  State.reset.Inv ∧ LaunchPremises State.reset ∧
    ∀ (p : Config.Params) (image : List Host.Cell) (irq : List (Option IrqRequest)) (host : List HostAnswer),
      (∀ a ∈ p.ends, a.getLsbD 0 = false) →
      (State.reset.launch p image irq host).Inv ∧ LaunchPremises (State.reset.launch p image irq host)

/-- After reset the pc is H'A0000000, SR has MD, RB and BL set, IMASK 15, and RC, DSP, DMY, DMX, RF1, RF0 and the reserved
bits 0, VBR and EXPEVT are 0, LDST is clear, the machine is not asleep, dirty_code is empty and no branch is pending:
the values R59 and R58 state, which R59 marks as its own decision (log 6). And no byte of memory holds a value, which
is the model's choice of an empty launch image and of no value for an unwritten byte (logs 30 and 4). The default
MEMMAP has no region at H'A0000000, so the first step from reset is the unmapped fault there (R500; where its one ram
region does stand is the model's choice, log 3). (R59, R500, R58.) -/
def Obligations.ResetValues : Prop :=
  State.reset.pc = 0xA0000000#32 ∧ State.reset.sr &&& 0xFFFFFCFC#32 = 0x700000F0#32 ∧
    State.reset.vbr = 0#32 ∧ State.reset.expevt = 0#32 ∧ State.reset.ldst = false ∧ State.reset.asleep = false ∧
    State.reset.dirtyCode = [] ∧ State.reset.pending = none ∧ (∀ a : Word, State.reset.holds a = none) ∧
    regionKind State.reset.params.memMap 0xA0000000#32 = none ∧
    step State.reset = .fault (.unmapped 0xA0000000#32)

/-- An instruction other than ADDC, ADDV, SUBC, NEGC, SUBV, the CMP forms, DIV0S, DIV0U, DIV1, DT, the TST forms, TAS.B,
the one-bit shifts and rotates, SETT, CLRT, MOVCO.L, the LDC forms to SR and RTE leaves T as it was, whatever it ends
in, and so does an LDC to SR in user mode; an instruction other than SETS, CLRS, the LDC forms to SR and RTE leaves S
as it was. So an exception entry changes neither. (R26, R27.) -/
def Obligations.WritersOfTAndS : Prop :=
  ∀ (s t : State) (i : Instr), exec i s = .next t →
    (writesT i = false → t.tBit = s.tBit) ∧ (writesS i = false → t.sBit = s.sBit) ∧
    (s.md = false → ∀ m : Reg, i = .ldcSr m ∨ i = .ldcLSr m → t.tBit = s.tBit ∧ t.sBit = s.sBit)

/-- Where the host answers a read in a device region, MOV.B, MOV.W and MOV.L @Rm,Rn complete with the answer, a byte or
word sign-extended, and where it takes a store there MOV.B, MOV.W and MOV.L Rm,@Rn complete with memory unchanged and
the block in dirty_code; the answer is used up and nothing else changes. Without an answer of the host, which is the
default, an instruction that the mode and the slot let execute is refused as a device access when its first access
lies in a device region, is aligned and is allowed in the mode, and each byte of it may be accessed there; and
whatever the host answers, if a byte of that access lies in no region and no register is mapped there, the first such
byte, those before it being accessible, is the unmapped fault. That an access is the host's when its first byte lies
in a device region, and that the host's function is a list of coming answers, are the model's choices (log 32). (R475,
R82, R84, R478.) -/
def Obligations.DeviceAccesses : Prop :=
  ∀ (s : State) (m n : Reg),
    (∀ v : Word,
      (AnswersRead s (s.r m) 1 v → Completes (.movBLoad m n) s
        (Leaves s (withReg s.r n ((v.setWidth 8).signExtend 32)) s.sr { s with host := s.host.tail })) ∧
      (AnswersRead s (s.r m) 2 v → Completes (.movWLoad m n) s
        (Leaves s (withReg s.r n ((v.setWidth 16).signExtend 32)) s.sr { s with host := s.host.tail })) ∧
      (AnswersRead s (s.r m) 4 v → Completes (.movLLoad m n) s
        (Leaves s (withReg s.r n v) s.sr { s with host := s.host.tail }))) ∧
    (let taken : State → Prop := fun t => Registers s s.r t ∧ t.sr = s.sr ∧
       SameRest { s with host := s.host.tail } t ∧ SameMemory s t ∧ DirtiedAt s t (s.r n) ∧ Advanced s t
     (AnswersWrite s (s.r n) 1 → Completes (.movBStore m n) s taken) ∧
     (AnswersWrite s (s.r n) 2 → Completes (.movWStore m n) s taken) ∧
     (AnswersWrite s (s.r n) 4 → Completes (.movLStore m n) s taken)) ∧
    (∀ (i : Instr) (e : Exc) (size : Nat) (a : Word), firstAccess i s = some (e, size, a) → mayExecute i s →
      a.toNat % size = 0 → s.mayAccess a = true → s.isDevice a = true →
      (s.host = [] → (e = .dataAddressErrorRead → HostReadable s a size) →
        (e = .dataAddressErrorWrite → HostWritable s a size) → exec i s = .refused (.deviceAccess a)) ∧
      (∀ k < size, (e = .dataAddressErrorRead → HostReadable s a k) →
        (e = .dataAddressErrorWrite → HostWritable s a k) → isControl (a + BitVec.ofNat 32 k) = false →
        regionKind s.params.memMap (a + BitVec.ofNat 32 k) = none →
        exec i s = .fault (.unmapped (a + BitVec.ofNat 32 k))))
end

