-- ==== Sys2Proof/Laws/Decode.lean ====
section
/-! SUPPORT. The fields of a word built from its parts. -/

namespace Sys2Proof

@[simp] theorem nib3_word4 (a b c d : BitVec 4) : nib3 (word4 a b c d) = a := by
  apply BitVec.eq_of_getLsbD_eq
  intro i hi
  simp only [nib3, word4, BitVec.getLsbD_append, BitVec.getLsbD_extractLsb', hi, decide_true, Bool.true_and]
  repeat' split
  all_goals first | omega | (congr 1; omega)

@[simp] theorem nib2_word4 (a b c d : BitVec 4) : nib2 (word4 a b c d) = b := by
  apply BitVec.eq_of_getLsbD_eq
  intro i hi
  simp only [nib2, word4, BitVec.getLsbD_append, BitVec.getLsbD_extractLsb', hi, decide_true, Bool.true_and]
  repeat' split
  all_goals first | omega | (congr 1; omega)

@[simp] theorem nib1_word4 (a b c d : BitVec 4) : nib1 (word4 a b c d) = c := by
  apply BitVec.eq_of_getLsbD_eq
  intro i hi
  simp only [nib1, word4, BitVec.getLsbD_append, BitVec.getLsbD_extractLsb', hi, decide_true, Bool.true_and]
  repeat' split
  all_goals first | omega | (congr 1; omega)

@[simp] theorem nib0_word4 (a b c d : BitVec 4) : nib0 (word4 a b c d) = d := by
  apply BitVec.eq_of_getLsbD_eq
  intro i hi
  simp only [nib0, word4, BitVec.getLsbD_append, BitVec.getLsbD_extractLsb', hi, decide_true, Bool.true_and]
  repeat' split
  all_goals first | omega | (congr 1; omega)

@[simp] theorem nib3_word448 (a b : BitVec 4) (e : BitVec 8) : nib3 (word448 a b e) = a := by
  apply BitVec.eq_of_getLsbD_eq
  intro i hi
  simp only [nib3, word448, BitVec.getLsbD_append, BitVec.getLsbD_extractLsb', hi, decide_true, Bool.true_and]
  repeat' split
  all_goals first | omega | (congr 1; omega)

@[simp] theorem nib2_word448 (a b : BitVec 4) (e : BitVec 8) : nib2 (word448 a b e) = b := by
  apply BitVec.eq_of_getLsbD_eq
  intro i hi
  simp only [nib2, word448, BitVec.getLsbD_append, BitVec.getLsbD_extractLsb', hi, decide_true, Bool.true_and]
  repeat' split
  all_goals first | omega | (congr 1; omega)

@[simp] theorem low8_word448 (a b : BitVec 4) (e : BitVec 8) : low8 (word448 a b e) = e := by
  apply BitVec.eq_of_getLsbD_eq
  intro i hi
  simp only [low8, word448, BitVec.getLsbD_append, BitVec.getLsbD_extractLsb', hi, decide_true, Bool.true_and]
  repeat' split
  all_goals first | omega | (congr 1; omega)

@[simp] theorem nib3_word412 (a : BitVec 4) (e : BitVec 12) : nib3 (word412 a e) = a := by
  apply BitVec.eq_of_getLsbD_eq
  intro i hi
  simp only [nib3, word412, BitVec.getLsbD_append, BitVec.getLsbD_extractLsb', hi, decide_true, Bool.true_and]
  repeat' split
  all_goals first | omega | (congr 1; omega)

@[simp] theorem low12_word412 (a : BitVec 4) (e : BitVec 12) : low12 (word412 a e) = e := by
  apply BitVec.eq_of_getLsbD_eq
  intro i hi
  simp only [low12, word412, BitVec.getLsbD_append, BitVec.getLsbD_extractLsb', hi, decide_true, Bool.true_and]
  repeat' split
  all_goals first | omega | (congr 1; omega)

@[simp] theorem msb_bankPart (b : BankReg) : ((1#1 ++ b : BitVec 4)).msb = true := by revert b; decide

@[simp] theorem bankField_word4 (a b d : BitVec 4) (c : BankReg) : bankField (word4 a b (1#1 ++ c) d) = c := by
  rw [bankField, nib1_word4]; revert c; decide

end Sys2Proof
end

