-- ==== Sys2Proof/Laws/State.lean ====
section
/-! SUPPORT. One lemma per field per update of State: what each update leaves alone. -/

namespace Sys2Proof.Machine

/-! ## setT -/

@[simp] theorem State.setT_bank0 (s : State) (b : Bool) : (s.setT b).bank0 = s.bank0 := rfl
@[simp] theorem State.setT_bank1 (s : State) (b : Bool) : (s.setT b).bank1 = s.bank1 := rfl
@[simp] theorem State.setT_high (s : State) (b : Bool) : (s.setT b).high = s.high := rfl
@[simp] theorem State.setT_pc (s : State) (b : Bool) : (s.setT b).pc = s.pc := rfl
@[simp] theorem State.setT_pending (s : State) (b : Bool) : (s.setT b).pending = s.pending := rfl
@[simp] theorem State.setT_gbr (s : State) (b : Bool) : (s.setT b).gbr = s.gbr := rfl
@[simp] theorem State.setT_vbr (s : State) (b : Bool) : (s.setT b).vbr = s.vbr := rfl
@[simp] theorem State.setT_ssr (s : State) (b : Bool) : (s.setT b).ssr = s.ssr := rfl
@[simp] theorem State.setT_spc (s : State) (b : Bool) : (s.setT b).spc = s.spc := rfl
@[simp] theorem State.setT_sgr (s : State) (b : Bool) : (s.setT b).sgr = s.sgr := rfl
@[simp] theorem State.setT_dbr (s : State) (b : Bool) : (s.setT b).dbr = s.dbr := rfl
@[simp] theorem State.setT_mach (s : State) (b : Bool) : (s.setT b).mach = s.mach := rfl
@[simp] theorem State.setT_macl (s : State) (b : Bool) : (s.setT b).macl = s.macl := rfl
@[simp] theorem State.setT_pr (s : State) (b : Bool) : (s.setT b).pr = s.pr := rfl
@[simp] theorem State.setT_tra (s : State) (b : Bool) : (s.setT b).tra = s.tra := rfl
@[simp] theorem State.setT_expevt (s : State) (b : Bool) : (s.setT b).expevt = s.expevt := rfl
@[simp] theorem State.setT_intevt (s : State) (b : Bool) : (s.setT b).intevt = s.intevt := rfl
@[simp] theorem State.setT_pteh (s : State) (b : Bool) : (s.setT b).pteh = s.pteh := rfl
@[simp] theorem State.setT_ptel (s : State) (b : Bool) : (s.setT b).ptel = s.ptel := rfl
@[simp] theorem State.setT_mmucr (s : State) (b : Bool) : (s.setT b).mmucr = s.mmucr := rfl
@[simp] theorem State.setT_tlb (s : State) (b : Bool) : (s.setT b).tlb = s.tlb := rfl
@[simp] theorem State.setT_mod (s : State) (b : Bool) : (s.setT b).mod = s.mod := rfl
@[simp] theorem State.setT_rs (s : State) (b : Bool) : (s.setT b).rs = s.rs := rfl
@[simp] theorem State.setT_re (s : State) (b : Bool) : (s.setT b).re = s.re := rfl
@[simp] theorem State.setT_dsr (s : State) (b : Bool) : (s.setT b).dsr = s.dsr := rfl
@[simp] theorem State.setT_a0 (s : State) (b : Bool) : (s.setT b).a0 = s.a0 := rfl
@[simp] theorem State.setT_a0g (s : State) (b : Bool) : (s.setT b).a0g = s.a0g := rfl
@[simp] theorem State.setT_x0 (s : State) (b : Bool) : (s.setT b).x0 = s.x0 := rfl
@[simp] theorem State.setT_x1 (s : State) (b : Bool) : (s.setT b).x1 = s.x1 := rfl
@[simp] theorem State.setT_y0 (s : State) (b : Bool) : (s.setT b).y0 = s.y0 := rfl
@[simp] theorem State.setT_y1 (s : State) (b : Bool) : (s.setT b).y1 = s.y1 := rfl
@[simp] theorem State.setT_ldst (s : State) (b : Bool) : (s.setT b).ldst = s.ldst := rfl
@[simp] theorem State.setT_asleep (s : State) (b : Bool) : (s.setT b).asleep = s.asleep := rfl
@[simp] theorem State.setT_mem (s : State) (b : Bool) : (s.setT b).mem = s.mem := rfl
@[simp] theorem State.setT_dirtyCode (s : State) (b : Bool) : (s.setT b).dirtyCode = s.dirtyCode := rfl
@[simp] theorem State.setT_params (s : State) (b : Bool) : (s.setT b).params = s.params := rfl
@[simp] theorem State.setT_irq (s : State) (b : Bool) : (s.setT b).irq = s.irq := rfl
@[simp] theorem State.setT_host (s : State) (b : Bool) : (s.setT b).host = s.host := rfl
@[simp] theorem State.setT_freeCount (s : State) (b : Bool) : (s.setT b).freeCount = s.freeCount := rfl

/-! ## setS -/

@[simp] theorem State.setS_bank0 (s : State) (b : Bool) : (s.setS b).bank0 = s.bank0 := rfl
@[simp] theorem State.setS_bank1 (s : State) (b : Bool) : (s.setS b).bank1 = s.bank1 := rfl
@[simp] theorem State.setS_high (s : State) (b : Bool) : (s.setS b).high = s.high := rfl
@[simp] theorem State.setS_pc (s : State) (b : Bool) : (s.setS b).pc = s.pc := rfl
@[simp] theorem State.setS_pending (s : State) (b : Bool) : (s.setS b).pending = s.pending := rfl
@[simp] theorem State.setS_gbr (s : State) (b : Bool) : (s.setS b).gbr = s.gbr := rfl
@[simp] theorem State.setS_vbr (s : State) (b : Bool) : (s.setS b).vbr = s.vbr := rfl
@[simp] theorem State.setS_ssr (s : State) (b : Bool) : (s.setS b).ssr = s.ssr := rfl
@[simp] theorem State.setS_spc (s : State) (b : Bool) : (s.setS b).spc = s.spc := rfl
@[simp] theorem State.setS_sgr (s : State) (b : Bool) : (s.setS b).sgr = s.sgr := rfl
@[simp] theorem State.setS_dbr (s : State) (b : Bool) : (s.setS b).dbr = s.dbr := rfl
@[simp] theorem State.setS_mach (s : State) (b : Bool) : (s.setS b).mach = s.mach := rfl
@[simp] theorem State.setS_macl (s : State) (b : Bool) : (s.setS b).macl = s.macl := rfl
@[simp] theorem State.setS_pr (s : State) (b : Bool) : (s.setS b).pr = s.pr := rfl
@[simp] theorem State.setS_tra (s : State) (b : Bool) : (s.setS b).tra = s.tra := rfl
@[simp] theorem State.setS_expevt (s : State) (b : Bool) : (s.setS b).expevt = s.expevt := rfl
@[simp] theorem State.setS_intevt (s : State) (b : Bool) : (s.setS b).intevt = s.intevt := rfl
@[simp] theorem State.setS_pteh (s : State) (b : Bool) : (s.setS b).pteh = s.pteh := rfl
@[simp] theorem State.setS_ptel (s : State) (b : Bool) : (s.setS b).ptel = s.ptel := rfl
@[simp] theorem State.setS_mmucr (s : State) (b : Bool) : (s.setS b).mmucr = s.mmucr := rfl
@[simp] theorem State.setS_tlb (s : State) (b : Bool) : (s.setS b).tlb = s.tlb := rfl
@[simp] theorem State.setS_mod (s : State) (b : Bool) : (s.setS b).mod = s.mod := rfl
@[simp] theorem State.setS_rs (s : State) (b : Bool) : (s.setS b).rs = s.rs := rfl
@[simp] theorem State.setS_re (s : State) (b : Bool) : (s.setS b).re = s.re := rfl
@[simp] theorem State.setS_dsr (s : State) (b : Bool) : (s.setS b).dsr = s.dsr := rfl
@[simp] theorem State.setS_a0 (s : State) (b : Bool) : (s.setS b).a0 = s.a0 := rfl
@[simp] theorem State.setS_a0g (s : State) (b : Bool) : (s.setS b).a0g = s.a0g := rfl
@[simp] theorem State.setS_x0 (s : State) (b : Bool) : (s.setS b).x0 = s.x0 := rfl
@[simp] theorem State.setS_x1 (s : State) (b : Bool) : (s.setS b).x1 = s.x1 := rfl
@[simp] theorem State.setS_y0 (s : State) (b : Bool) : (s.setS b).y0 = s.y0 := rfl
@[simp] theorem State.setS_y1 (s : State) (b : Bool) : (s.setS b).y1 = s.y1 := rfl
@[simp] theorem State.setS_ldst (s : State) (b : Bool) : (s.setS b).ldst = s.ldst := rfl
@[simp] theorem State.setS_asleep (s : State) (b : Bool) : (s.setS b).asleep = s.asleep := rfl
@[simp] theorem State.setS_mem (s : State) (b : Bool) : (s.setS b).mem = s.mem := rfl
@[simp] theorem State.setS_dirtyCode (s : State) (b : Bool) : (s.setS b).dirtyCode = s.dirtyCode := rfl
@[simp] theorem State.setS_params (s : State) (b : Bool) : (s.setS b).params = s.params := rfl
@[simp] theorem State.setS_irq (s : State) (b : Bool) : (s.setS b).irq = s.irq := rfl
@[simp] theorem State.setS_host (s : State) (b : Bool) : (s.setS b).host = s.host := rfl
@[simp] theorem State.setS_freeCount (s : State) (b : Bool) : (s.setS b).freeCount = s.freeCount := rfl

/-! ## setQ -/

@[simp] theorem State.setQ_bank0 (s : State) (b : Bool) : (s.setQ b).bank0 = s.bank0 := rfl
@[simp] theorem State.setQ_bank1 (s : State) (b : Bool) : (s.setQ b).bank1 = s.bank1 := rfl
@[simp] theorem State.setQ_high (s : State) (b : Bool) : (s.setQ b).high = s.high := rfl
@[simp] theorem State.setQ_pc (s : State) (b : Bool) : (s.setQ b).pc = s.pc := rfl
@[simp] theorem State.setQ_pending (s : State) (b : Bool) : (s.setQ b).pending = s.pending := rfl
@[simp] theorem State.setQ_gbr (s : State) (b : Bool) : (s.setQ b).gbr = s.gbr := rfl
@[simp] theorem State.setQ_vbr (s : State) (b : Bool) : (s.setQ b).vbr = s.vbr := rfl
@[simp] theorem State.setQ_ssr (s : State) (b : Bool) : (s.setQ b).ssr = s.ssr := rfl
@[simp] theorem State.setQ_spc (s : State) (b : Bool) : (s.setQ b).spc = s.spc := rfl
@[simp] theorem State.setQ_sgr (s : State) (b : Bool) : (s.setQ b).sgr = s.sgr := rfl
@[simp] theorem State.setQ_dbr (s : State) (b : Bool) : (s.setQ b).dbr = s.dbr := rfl
@[simp] theorem State.setQ_mach (s : State) (b : Bool) : (s.setQ b).mach = s.mach := rfl
@[simp] theorem State.setQ_macl (s : State) (b : Bool) : (s.setQ b).macl = s.macl := rfl
@[simp] theorem State.setQ_pr (s : State) (b : Bool) : (s.setQ b).pr = s.pr := rfl
@[simp] theorem State.setQ_tra (s : State) (b : Bool) : (s.setQ b).tra = s.tra := rfl
@[simp] theorem State.setQ_expevt (s : State) (b : Bool) : (s.setQ b).expevt = s.expevt := rfl
@[simp] theorem State.setQ_intevt (s : State) (b : Bool) : (s.setQ b).intevt = s.intevt := rfl
@[simp] theorem State.setQ_pteh (s : State) (b : Bool) : (s.setQ b).pteh = s.pteh := rfl
@[simp] theorem State.setQ_ptel (s : State) (b : Bool) : (s.setQ b).ptel = s.ptel := rfl
@[simp] theorem State.setQ_mmucr (s : State) (b : Bool) : (s.setQ b).mmucr = s.mmucr := rfl
@[simp] theorem State.setQ_tlb (s : State) (b : Bool) : (s.setQ b).tlb = s.tlb := rfl
@[simp] theorem State.setQ_mod (s : State) (b : Bool) : (s.setQ b).mod = s.mod := rfl
@[simp] theorem State.setQ_rs (s : State) (b : Bool) : (s.setQ b).rs = s.rs := rfl
@[simp] theorem State.setQ_re (s : State) (b : Bool) : (s.setQ b).re = s.re := rfl
@[simp] theorem State.setQ_dsr (s : State) (b : Bool) : (s.setQ b).dsr = s.dsr := rfl
@[simp] theorem State.setQ_a0 (s : State) (b : Bool) : (s.setQ b).a0 = s.a0 := rfl
@[simp] theorem State.setQ_a0g (s : State) (b : Bool) : (s.setQ b).a0g = s.a0g := rfl
@[simp] theorem State.setQ_x0 (s : State) (b : Bool) : (s.setQ b).x0 = s.x0 := rfl
@[simp] theorem State.setQ_x1 (s : State) (b : Bool) : (s.setQ b).x1 = s.x1 := rfl
@[simp] theorem State.setQ_y0 (s : State) (b : Bool) : (s.setQ b).y0 = s.y0 := rfl
@[simp] theorem State.setQ_y1 (s : State) (b : Bool) : (s.setQ b).y1 = s.y1 := rfl
@[simp] theorem State.setQ_ldst (s : State) (b : Bool) : (s.setQ b).ldst = s.ldst := rfl
@[simp] theorem State.setQ_asleep (s : State) (b : Bool) : (s.setQ b).asleep = s.asleep := rfl
@[simp] theorem State.setQ_mem (s : State) (b : Bool) : (s.setQ b).mem = s.mem := rfl
@[simp] theorem State.setQ_dirtyCode (s : State) (b : Bool) : (s.setQ b).dirtyCode = s.dirtyCode := rfl
@[simp] theorem State.setQ_params (s : State) (b : Bool) : (s.setQ b).params = s.params := rfl
@[simp] theorem State.setQ_irq (s : State) (b : Bool) : (s.setQ b).irq = s.irq := rfl
@[simp] theorem State.setQ_host (s : State) (b : Bool) : (s.setQ b).host = s.host := rfl
@[simp] theorem State.setQ_freeCount (s : State) (b : Bool) : (s.setQ b).freeCount = s.freeCount := rfl

/-! ## setM -/

@[simp] theorem State.setM_bank0 (s : State) (b : Bool) : (s.setM b).bank0 = s.bank0 := rfl
@[simp] theorem State.setM_bank1 (s : State) (b : Bool) : (s.setM b).bank1 = s.bank1 := rfl
@[simp] theorem State.setM_high (s : State) (b : Bool) : (s.setM b).high = s.high := rfl
@[simp] theorem State.setM_pc (s : State) (b : Bool) : (s.setM b).pc = s.pc := rfl
@[simp] theorem State.setM_pending (s : State) (b : Bool) : (s.setM b).pending = s.pending := rfl
@[simp] theorem State.setM_gbr (s : State) (b : Bool) : (s.setM b).gbr = s.gbr := rfl
@[simp] theorem State.setM_vbr (s : State) (b : Bool) : (s.setM b).vbr = s.vbr := rfl
@[simp] theorem State.setM_ssr (s : State) (b : Bool) : (s.setM b).ssr = s.ssr := rfl
@[simp] theorem State.setM_spc (s : State) (b : Bool) : (s.setM b).spc = s.spc := rfl
@[simp] theorem State.setM_sgr (s : State) (b : Bool) : (s.setM b).sgr = s.sgr := rfl
@[simp] theorem State.setM_dbr (s : State) (b : Bool) : (s.setM b).dbr = s.dbr := rfl
@[simp] theorem State.setM_mach (s : State) (b : Bool) : (s.setM b).mach = s.mach := rfl
@[simp] theorem State.setM_macl (s : State) (b : Bool) : (s.setM b).macl = s.macl := rfl
@[simp] theorem State.setM_pr (s : State) (b : Bool) : (s.setM b).pr = s.pr := rfl
@[simp] theorem State.setM_tra (s : State) (b : Bool) : (s.setM b).tra = s.tra := rfl
@[simp] theorem State.setM_expevt (s : State) (b : Bool) : (s.setM b).expevt = s.expevt := rfl
@[simp] theorem State.setM_intevt (s : State) (b : Bool) : (s.setM b).intevt = s.intevt := rfl
@[simp] theorem State.setM_pteh (s : State) (b : Bool) : (s.setM b).pteh = s.pteh := rfl
@[simp] theorem State.setM_ptel (s : State) (b : Bool) : (s.setM b).ptel = s.ptel := rfl
@[simp] theorem State.setM_mmucr (s : State) (b : Bool) : (s.setM b).mmucr = s.mmucr := rfl
@[simp] theorem State.setM_tlb (s : State) (b : Bool) : (s.setM b).tlb = s.tlb := rfl
@[simp] theorem State.setM_mod (s : State) (b : Bool) : (s.setM b).mod = s.mod := rfl
@[simp] theorem State.setM_rs (s : State) (b : Bool) : (s.setM b).rs = s.rs := rfl
@[simp] theorem State.setM_re (s : State) (b : Bool) : (s.setM b).re = s.re := rfl
@[simp] theorem State.setM_dsr (s : State) (b : Bool) : (s.setM b).dsr = s.dsr := rfl
@[simp] theorem State.setM_a0 (s : State) (b : Bool) : (s.setM b).a0 = s.a0 := rfl
@[simp] theorem State.setM_a0g (s : State) (b : Bool) : (s.setM b).a0g = s.a0g := rfl
@[simp] theorem State.setM_x0 (s : State) (b : Bool) : (s.setM b).x0 = s.x0 := rfl
@[simp] theorem State.setM_x1 (s : State) (b : Bool) : (s.setM b).x1 = s.x1 := rfl
@[simp] theorem State.setM_y0 (s : State) (b : Bool) : (s.setM b).y0 = s.y0 := rfl
@[simp] theorem State.setM_y1 (s : State) (b : Bool) : (s.setM b).y1 = s.y1 := rfl
@[simp] theorem State.setM_ldst (s : State) (b : Bool) : (s.setM b).ldst = s.ldst := rfl
@[simp] theorem State.setM_asleep (s : State) (b : Bool) : (s.setM b).asleep = s.asleep := rfl
@[simp] theorem State.setM_mem (s : State) (b : Bool) : (s.setM b).mem = s.mem := rfl
@[simp] theorem State.setM_dirtyCode (s : State) (b : Bool) : (s.setM b).dirtyCode = s.dirtyCode := rfl
@[simp] theorem State.setM_params (s : State) (b : Bool) : (s.setM b).params = s.params := rfl
@[simp] theorem State.setM_irq (s : State) (b : Bool) : (s.setM b).irq = s.irq := rfl
@[simp] theorem State.setM_host (s : State) (b : Bool) : (s.setM b).host = s.host := rfl
@[simp] theorem State.setM_freeCount (s : State) (b : Bool) : (s.setM b).freeCount = s.freeCount := rfl

/-! ## setDmxDmy -/

@[simp] theorem State.setDmxDmy_bank0 (s : State) (x y : Bool) : (s.setDmxDmy x y).bank0 = s.bank0 := rfl
@[simp] theorem State.setDmxDmy_bank1 (s : State) (x y : Bool) : (s.setDmxDmy x y).bank1 = s.bank1 := rfl
@[simp] theorem State.setDmxDmy_high (s : State) (x y : Bool) : (s.setDmxDmy x y).high = s.high := rfl
@[simp] theorem State.setDmxDmy_pc (s : State) (x y : Bool) : (s.setDmxDmy x y).pc = s.pc := rfl
@[simp] theorem State.setDmxDmy_pending (s : State) (x y : Bool) : (s.setDmxDmy x y).pending = s.pending := rfl
@[simp] theorem State.setDmxDmy_gbr (s : State) (x y : Bool) : (s.setDmxDmy x y).gbr = s.gbr := rfl
@[simp] theorem State.setDmxDmy_vbr (s : State) (x y : Bool) : (s.setDmxDmy x y).vbr = s.vbr := rfl
@[simp] theorem State.setDmxDmy_ssr (s : State) (x y : Bool) : (s.setDmxDmy x y).ssr = s.ssr := rfl
@[simp] theorem State.setDmxDmy_spc (s : State) (x y : Bool) : (s.setDmxDmy x y).spc = s.spc := rfl
@[simp] theorem State.setDmxDmy_sgr (s : State) (x y : Bool) : (s.setDmxDmy x y).sgr = s.sgr := rfl
@[simp] theorem State.setDmxDmy_dbr (s : State) (x y : Bool) : (s.setDmxDmy x y).dbr = s.dbr := rfl
@[simp] theorem State.setDmxDmy_mach (s : State) (x y : Bool) : (s.setDmxDmy x y).mach = s.mach := rfl
@[simp] theorem State.setDmxDmy_macl (s : State) (x y : Bool) : (s.setDmxDmy x y).macl = s.macl := rfl
@[simp] theorem State.setDmxDmy_pr (s : State) (x y : Bool) : (s.setDmxDmy x y).pr = s.pr := rfl
@[simp] theorem State.setDmxDmy_tra (s : State) (x y : Bool) : (s.setDmxDmy x y).tra = s.tra := rfl
@[simp] theorem State.setDmxDmy_expevt (s : State) (x y : Bool) : (s.setDmxDmy x y).expevt = s.expevt := rfl
@[simp] theorem State.setDmxDmy_intevt (s : State) (x y : Bool) : (s.setDmxDmy x y).intevt = s.intevt := rfl
@[simp] theorem State.setDmxDmy_pteh (s : State) (x y : Bool) : (s.setDmxDmy x y).pteh = s.pteh := rfl
@[simp] theorem State.setDmxDmy_ptel (s : State) (x y : Bool) : (s.setDmxDmy x y).ptel = s.ptel := rfl
@[simp] theorem State.setDmxDmy_mmucr (s : State) (x y : Bool) : (s.setDmxDmy x y).mmucr = s.mmucr := rfl
@[simp] theorem State.setDmxDmy_tlb (s : State) (x y : Bool) : (s.setDmxDmy x y).tlb = s.tlb := rfl
@[simp] theorem State.setDmxDmy_mod (s : State) (x y : Bool) : (s.setDmxDmy x y).mod = s.mod := rfl
@[simp] theorem State.setDmxDmy_rs (s : State) (x y : Bool) : (s.setDmxDmy x y).rs = s.rs := rfl
@[simp] theorem State.setDmxDmy_re (s : State) (x y : Bool) : (s.setDmxDmy x y).re = s.re := rfl
@[simp] theorem State.setDmxDmy_dsr (s : State) (x y : Bool) : (s.setDmxDmy x y).dsr = s.dsr := rfl
@[simp] theorem State.setDmxDmy_a0 (s : State) (x y : Bool) : (s.setDmxDmy x y).a0 = s.a0 := rfl
@[simp] theorem State.setDmxDmy_a0g (s : State) (x y : Bool) : (s.setDmxDmy x y).a0g = s.a0g := rfl
@[simp] theorem State.setDmxDmy_x0 (s : State) (x y : Bool) : (s.setDmxDmy x y).x0 = s.x0 := rfl
@[simp] theorem State.setDmxDmy_x1 (s : State) (x y : Bool) : (s.setDmxDmy x y).x1 = s.x1 := rfl
@[simp] theorem State.setDmxDmy_y0 (s : State) (x y : Bool) : (s.setDmxDmy x y).y0 = s.y0 := rfl
@[simp] theorem State.setDmxDmy_y1 (s : State) (x y : Bool) : (s.setDmxDmy x y).y1 = s.y1 := rfl
@[simp] theorem State.setDmxDmy_ldst (s : State) (x y : Bool) : (s.setDmxDmy x y).ldst = s.ldst := rfl
@[simp] theorem State.setDmxDmy_asleep (s : State) (x y : Bool) : (s.setDmxDmy x y).asleep = s.asleep := rfl
@[simp] theorem State.setDmxDmy_mem (s : State) (x y : Bool) : (s.setDmxDmy x y).mem = s.mem := rfl
@[simp] theorem State.setDmxDmy_dirtyCode (s : State) (x y : Bool) : (s.setDmxDmy x y).dirtyCode = s.dirtyCode := rfl
@[simp] theorem State.setDmxDmy_params (s : State) (x y : Bool) : (s.setDmxDmy x y).params = s.params := rfl
@[simp] theorem State.setDmxDmy_irq (s : State) (x y : Bool) : (s.setDmxDmy x y).irq = s.irq := rfl
@[simp] theorem State.setDmxDmy_host (s : State) (x y : Bool) : (s.setDmxDmy x y).host = s.host := rfl
@[simp] theorem State.setDmxDmy_freeCount (s : State) (x y : Bool) : (s.setDmxDmy x y).freeCount = s.freeCount := rfl

/-! ## setRepeat -/

@[simp] theorem State.setRepeat_bank0 (s : State) (c : BitVec 12) (x y : Bool) : (s.setRepeat c x y).bank0 = s.bank0 := rfl
@[simp] theorem State.setRepeat_bank1 (s : State) (c : BitVec 12) (x y : Bool) : (s.setRepeat c x y).bank1 = s.bank1 := rfl
@[simp] theorem State.setRepeat_high (s : State) (c : BitVec 12) (x y : Bool) : (s.setRepeat c x y).high = s.high := rfl
@[simp] theorem State.setRepeat_pc (s : State) (c : BitVec 12) (x y : Bool) : (s.setRepeat c x y).pc = s.pc := rfl
@[simp] theorem State.setRepeat_pending (s : State) (c : BitVec 12) (x y : Bool) : (s.setRepeat c x y).pending = s.pending := rfl
@[simp] theorem State.setRepeat_gbr (s : State) (c : BitVec 12) (x y : Bool) : (s.setRepeat c x y).gbr = s.gbr := rfl
@[simp] theorem State.setRepeat_vbr (s : State) (c : BitVec 12) (x y : Bool) : (s.setRepeat c x y).vbr = s.vbr := rfl
@[simp] theorem State.setRepeat_ssr (s : State) (c : BitVec 12) (x y : Bool) : (s.setRepeat c x y).ssr = s.ssr := rfl
@[simp] theorem State.setRepeat_spc (s : State) (c : BitVec 12) (x y : Bool) : (s.setRepeat c x y).spc = s.spc := rfl
@[simp] theorem State.setRepeat_sgr (s : State) (c : BitVec 12) (x y : Bool) : (s.setRepeat c x y).sgr = s.sgr := rfl
@[simp] theorem State.setRepeat_dbr (s : State) (c : BitVec 12) (x y : Bool) : (s.setRepeat c x y).dbr = s.dbr := rfl
@[simp] theorem State.setRepeat_mach (s : State) (c : BitVec 12) (x y : Bool) : (s.setRepeat c x y).mach = s.mach := rfl
@[simp] theorem State.setRepeat_macl (s : State) (c : BitVec 12) (x y : Bool) : (s.setRepeat c x y).macl = s.macl := rfl
@[simp] theorem State.setRepeat_pr (s : State) (c : BitVec 12) (x y : Bool) : (s.setRepeat c x y).pr = s.pr := rfl
@[simp] theorem State.setRepeat_tra (s : State) (c : BitVec 12) (x y : Bool) : (s.setRepeat c x y).tra = s.tra := rfl
@[simp] theorem State.setRepeat_expevt (s : State) (c : BitVec 12) (x y : Bool) : (s.setRepeat c x y).expevt = s.expevt := rfl
@[simp] theorem State.setRepeat_intevt (s : State) (c : BitVec 12) (x y : Bool) : (s.setRepeat c x y).intevt = s.intevt := rfl
@[simp] theorem State.setRepeat_pteh (s : State) (c : BitVec 12) (x y : Bool) : (s.setRepeat c x y).pteh = s.pteh := rfl
@[simp] theorem State.setRepeat_ptel (s : State) (c : BitVec 12) (x y : Bool) : (s.setRepeat c x y).ptel = s.ptel := rfl
@[simp] theorem State.setRepeat_mmucr (s : State) (c : BitVec 12) (x y : Bool) : (s.setRepeat c x y).mmucr = s.mmucr := rfl
@[simp] theorem State.setRepeat_tlb (s : State) (c : BitVec 12) (x y : Bool) : (s.setRepeat c x y).tlb = s.tlb := rfl
@[simp] theorem State.setRepeat_mod (s : State) (c : BitVec 12) (x y : Bool) : (s.setRepeat c x y).mod = s.mod := rfl
@[simp] theorem State.setRepeat_rs (s : State) (c : BitVec 12) (x y : Bool) : (s.setRepeat c x y).rs = s.rs := rfl
@[simp] theorem State.setRepeat_re (s : State) (c : BitVec 12) (x y : Bool) : (s.setRepeat c x y).re = s.re := rfl
@[simp] theorem State.setRepeat_dsr (s : State) (c : BitVec 12) (x y : Bool) : (s.setRepeat c x y).dsr = s.dsr := rfl
@[simp] theorem State.setRepeat_a0 (s : State) (c : BitVec 12) (x y : Bool) : (s.setRepeat c x y).a0 = s.a0 := rfl
@[simp] theorem State.setRepeat_a0g (s : State) (c : BitVec 12) (x y : Bool) : (s.setRepeat c x y).a0g = s.a0g := rfl
@[simp] theorem State.setRepeat_x0 (s : State) (c : BitVec 12) (x y : Bool) : (s.setRepeat c x y).x0 = s.x0 := rfl
@[simp] theorem State.setRepeat_x1 (s : State) (c : BitVec 12) (x y : Bool) : (s.setRepeat c x y).x1 = s.x1 := rfl
@[simp] theorem State.setRepeat_y0 (s : State) (c : BitVec 12) (x y : Bool) : (s.setRepeat c x y).y0 = s.y0 := rfl
@[simp] theorem State.setRepeat_y1 (s : State) (c : BitVec 12) (x y : Bool) : (s.setRepeat c x y).y1 = s.y1 := rfl
@[simp] theorem State.setRepeat_ldst (s : State) (c : BitVec 12) (x y : Bool) : (s.setRepeat c x y).ldst = s.ldst := rfl
@[simp] theorem State.setRepeat_asleep (s : State) (c : BitVec 12) (x y : Bool) : (s.setRepeat c x y).asleep = s.asleep := rfl
@[simp] theorem State.setRepeat_mem (s : State) (c : BitVec 12) (x y : Bool) : (s.setRepeat c x y).mem = s.mem := rfl
@[simp] theorem State.setRepeat_dirtyCode (s : State) (c : BitVec 12) (x y : Bool) : (s.setRepeat c x y).dirtyCode = s.dirtyCode := rfl
@[simp] theorem State.setRepeat_params (s : State) (c : BitVec 12) (x y : Bool) : (s.setRepeat c x y).params = s.params := rfl
@[simp] theorem State.setRepeat_irq (s : State) (c : BitVec 12) (x y : Bool) : (s.setRepeat c x y).irq = s.irq := rfl
@[simp] theorem State.setRepeat_host (s : State) (c : BitVec 12) (x y : Bool) : (s.setRepeat c x y).host = s.host := rfl
@[simp] theorem State.setRepeat_freeCount (s : State) (c : BitVec 12) (x y : Bool) : (s.setRepeat c x y).freeCount = s.freeCount := rfl

/-! ## enter -/

@[simp] theorem State.enter_bank0 (s : State) (a b : Word) : (s.enter a b).bank0 = s.bank0 := rfl
@[simp] theorem State.enter_bank1 (s : State) (a b : Word) : (s.enter a b).bank1 = s.bank1 := rfl
@[simp] theorem State.enter_high (s : State) (a b : Word) : (s.enter a b).high = s.high := rfl
@[simp] theorem State.enter_gbr (s : State) (a b : Word) : (s.enter a b).gbr = s.gbr := rfl
@[simp] theorem State.enter_vbr (s : State) (a b : Word) : (s.enter a b).vbr = s.vbr := rfl
@[simp] theorem State.enter_dbr (s : State) (a b : Word) : (s.enter a b).dbr = s.dbr := rfl
@[simp] theorem State.enter_mach (s : State) (a b : Word) : (s.enter a b).mach = s.mach := rfl
@[simp] theorem State.enter_macl (s : State) (a b : Word) : (s.enter a b).macl = s.macl := rfl
@[simp] theorem State.enter_pr (s : State) (a b : Word) : (s.enter a b).pr = s.pr := rfl
@[simp] theorem State.enter_tra (s : State) (a b : Word) : (s.enter a b).tra = s.tra := rfl
@[simp] theorem State.enter_expevt (s : State) (a b : Word) : (s.enter a b).expevt = s.expevt := rfl
@[simp] theorem State.enter_intevt (s : State) (a b : Word) : (s.enter a b).intevt = s.intevt := rfl
@[simp] theorem State.enter_pteh (s : State) (a b : Word) : (s.enter a b).pteh = s.pteh := rfl
@[simp] theorem State.enter_ptel (s : State) (a b : Word) : (s.enter a b).ptel = s.ptel := rfl
@[simp] theorem State.enter_mmucr (s : State) (a b : Word) : (s.enter a b).mmucr = s.mmucr := rfl
@[simp] theorem State.enter_tlb (s : State) (a b : Word) : (s.enter a b).tlb = s.tlb := rfl
@[simp] theorem State.enter_mod (s : State) (a b : Word) : (s.enter a b).mod = s.mod := rfl
@[simp] theorem State.enter_rs (s : State) (a b : Word) : (s.enter a b).rs = s.rs := rfl
@[simp] theorem State.enter_re (s : State) (a b : Word) : (s.enter a b).re = s.re := rfl
@[simp] theorem State.enter_dsr (s : State) (a b : Word) : (s.enter a b).dsr = s.dsr := rfl
@[simp] theorem State.enter_a0 (s : State) (a b : Word) : (s.enter a b).a0 = s.a0 := rfl
@[simp] theorem State.enter_a0g (s : State) (a b : Word) : (s.enter a b).a0g = s.a0g := rfl
@[simp] theorem State.enter_x0 (s : State) (a b : Word) : (s.enter a b).x0 = s.x0 := rfl
@[simp] theorem State.enter_x1 (s : State) (a b : Word) : (s.enter a b).x1 = s.x1 := rfl
@[simp] theorem State.enter_y0 (s : State) (a b : Word) : (s.enter a b).y0 = s.y0 := rfl
@[simp] theorem State.enter_y1 (s : State) (a b : Word) : (s.enter a b).y1 = s.y1 := rfl
@[simp] theorem State.enter_mem (s : State) (a b : Word) : (s.enter a b).mem = s.mem := rfl
@[simp] theorem State.enter_dirtyCode (s : State) (a b : Word) : (s.enter a b).dirtyCode = s.dirtyCode := rfl
@[simp] theorem State.enter_params (s : State) (a b : Word) : (s.enter a b).params = s.params := rfl
@[simp] theorem State.enter_irq (s : State) (a b : Word) : (s.enter a b).irq = s.irq := rfl
@[simp] theorem State.enter_host (s : State) (a b : Word) : (s.enter a b).host = s.host := rfl
@[simp] theorem State.enter_freeCount (s : State) (a b : Word) : (s.enter a b).freeCount = s.freeCount := rfl

/-! ## enterException -/

@[simp] theorem State.enterException_bank0 (s : State) (e : Exc) : (s.enterException e).bank0 = s.bank0 := rfl
@[simp] theorem State.enterException_bank1 (s : State) (e : Exc) : (s.enterException e).bank1 = s.bank1 := rfl
@[simp] theorem State.enterException_high (s : State) (e : Exc) : (s.enterException e).high = s.high := rfl
@[simp] theorem State.enterException_gbr (s : State) (e : Exc) : (s.enterException e).gbr = s.gbr := rfl
@[simp] theorem State.enterException_vbr (s : State) (e : Exc) : (s.enterException e).vbr = s.vbr := rfl
@[simp] theorem State.enterException_dbr (s : State) (e : Exc) : (s.enterException e).dbr = s.dbr := rfl
@[simp] theorem State.enterException_mach (s : State) (e : Exc) : (s.enterException e).mach = s.mach := rfl
@[simp] theorem State.enterException_macl (s : State) (e : Exc) : (s.enterException e).macl = s.macl := rfl
@[simp] theorem State.enterException_pr (s : State) (e : Exc) : (s.enterException e).pr = s.pr := rfl
@[simp] theorem State.enterException_tra (s : State) (e : Exc) : (s.enterException e).tra = s.tra := rfl
@[simp] theorem State.enterException_intevt (s : State) (e : Exc) : (s.enterException e).intevt = s.intevt := rfl
@[simp] theorem State.enterException_pteh (s : State) (e : Exc) : (s.enterException e).pteh = s.pteh := rfl
@[simp] theorem State.enterException_ptel (s : State) (e : Exc) : (s.enterException e).ptel = s.ptel := rfl
@[simp] theorem State.enterException_mmucr (s : State) (e : Exc) : (s.enterException e).mmucr = s.mmucr := rfl
@[simp] theorem State.enterException_tlb (s : State) (e : Exc) : (s.enterException e).tlb = s.tlb := rfl
@[simp] theorem State.enterException_mod (s : State) (e : Exc) : (s.enterException e).mod = s.mod := rfl
@[simp] theorem State.enterException_rs (s : State) (e : Exc) : (s.enterException e).rs = s.rs := rfl
@[simp] theorem State.enterException_re (s : State) (e : Exc) : (s.enterException e).re = s.re := rfl
@[simp] theorem State.enterException_dsr (s : State) (e : Exc) : (s.enterException e).dsr = s.dsr := rfl
@[simp] theorem State.enterException_a0 (s : State) (e : Exc) : (s.enterException e).a0 = s.a0 := rfl
@[simp] theorem State.enterException_a0g (s : State) (e : Exc) : (s.enterException e).a0g = s.a0g := rfl
@[simp] theorem State.enterException_x0 (s : State) (e : Exc) : (s.enterException e).x0 = s.x0 := rfl
@[simp] theorem State.enterException_x1 (s : State) (e : Exc) : (s.enterException e).x1 = s.x1 := rfl
@[simp] theorem State.enterException_y0 (s : State) (e : Exc) : (s.enterException e).y0 = s.y0 := rfl
@[simp] theorem State.enterException_y1 (s : State) (e : Exc) : (s.enterException e).y1 = s.y1 := rfl
@[simp] theorem State.enterException_mem (s : State) (e : Exc) : (s.enterException e).mem = s.mem := rfl
@[simp] theorem State.enterException_dirtyCode (s : State) (e : Exc) : (s.enterException e).dirtyCode = s.dirtyCode := rfl
@[simp] theorem State.enterException_params (s : State) (e : Exc) : (s.enterException e).params = s.params := rfl
@[simp] theorem State.enterException_irq (s : State) (e : Exc) : (s.enterException e).irq = s.irq := rfl
@[simp] theorem State.enterException_host (s : State) (e : Exc) : (s.enterException e).host = s.host := rfl
@[simp] theorem State.enterException_freeCount (s : State) (e : Exc) : (s.enterException e).freeCount = s.freeCount := rfl

/-! ## enterInterrupt -/

@[simp] theorem State.enterInterrupt_bank0 (s : State) (q : IrqRequest) : (s.enterInterrupt q).bank0 = s.bank0 := rfl
@[simp] theorem State.enterInterrupt_bank1 (s : State) (q : IrqRequest) : (s.enterInterrupt q).bank1 = s.bank1 := rfl
@[simp] theorem State.enterInterrupt_high (s : State) (q : IrqRequest) : (s.enterInterrupt q).high = s.high := rfl
@[simp] theorem State.enterInterrupt_gbr (s : State) (q : IrqRequest) : (s.enterInterrupt q).gbr = s.gbr := rfl
@[simp] theorem State.enterInterrupt_vbr (s : State) (q : IrqRequest) : (s.enterInterrupt q).vbr = s.vbr := rfl
@[simp] theorem State.enterInterrupt_dbr (s : State) (q : IrqRequest) : (s.enterInterrupt q).dbr = s.dbr := rfl
@[simp] theorem State.enterInterrupt_mach (s : State) (q : IrqRequest) : (s.enterInterrupt q).mach = s.mach := rfl
@[simp] theorem State.enterInterrupt_macl (s : State) (q : IrqRequest) : (s.enterInterrupt q).macl = s.macl := rfl
@[simp] theorem State.enterInterrupt_pr (s : State) (q : IrqRequest) : (s.enterInterrupt q).pr = s.pr := rfl
@[simp] theorem State.enterInterrupt_tra (s : State) (q : IrqRequest) : (s.enterInterrupt q).tra = s.tra := rfl
@[simp] theorem State.enterInterrupt_expevt (s : State) (q : IrqRequest) : (s.enterInterrupt q).expevt = s.expevt := rfl
@[simp] theorem State.enterInterrupt_pteh (s : State) (q : IrqRequest) : (s.enterInterrupt q).pteh = s.pteh := rfl
@[simp] theorem State.enterInterrupt_ptel (s : State) (q : IrqRequest) : (s.enterInterrupt q).ptel = s.ptel := rfl
@[simp] theorem State.enterInterrupt_mmucr (s : State) (q : IrqRequest) : (s.enterInterrupt q).mmucr = s.mmucr := rfl
@[simp] theorem State.enterInterrupt_tlb (s : State) (q : IrqRequest) : (s.enterInterrupt q).tlb = s.tlb := rfl
@[simp] theorem State.enterInterrupt_mod (s : State) (q : IrqRequest) : (s.enterInterrupt q).mod = s.mod := rfl
@[simp] theorem State.enterInterrupt_rs (s : State) (q : IrqRequest) : (s.enterInterrupt q).rs = s.rs := rfl
@[simp] theorem State.enterInterrupt_re (s : State) (q : IrqRequest) : (s.enterInterrupt q).re = s.re := rfl
@[simp] theorem State.enterInterrupt_dsr (s : State) (q : IrqRequest) : (s.enterInterrupt q).dsr = s.dsr := rfl
@[simp] theorem State.enterInterrupt_a0 (s : State) (q : IrqRequest) : (s.enterInterrupt q).a0 = s.a0 := rfl
@[simp] theorem State.enterInterrupt_a0g (s : State) (q : IrqRequest) : (s.enterInterrupt q).a0g = s.a0g := rfl
@[simp] theorem State.enterInterrupt_x0 (s : State) (q : IrqRequest) : (s.enterInterrupt q).x0 = s.x0 := rfl
@[simp] theorem State.enterInterrupt_x1 (s : State) (q : IrqRequest) : (s.enterInterrupt q).x1 = s.x1 := rfl
@[simp] theorem State.enterInterrupt_y0 (s : State) (q : IrqRequest) : (s.enterInterrupt q).y0 = s.y0 := rfl
@[simp] theorem State.enterInterrupt_y1 (s : State) (q : IrqRequest) : (s.enterInterrupt q).y1 = s.y1 := rfl
@[simp] theorem State.enterInterrupt_mem (s : State) (q : IrqRequest) : (s.enterInterrupt q).mem = s.mem := rfl
@[simp] theorem State.enterInterrupt_dirtyCode (s : State) (q : IrqRequest) : (s.enterInterrupt q).dirtyCode = s.dirtyCode := rfl
@[simp] theorem State.enterInterrupt_params (s : State) (q : IrqRequest) : (s.enterInterrupt q).params = s.params := rfl
@[simp] theorem State.enterInterrupt_irq (s : State) (q : IrqRequest) : (s.enterInterrupt q).irq = s.irq := rfl
@[simp] theorem State.enterInterrupt_host (s : State) (q : IrqRequest) : (s.enterInterrupt q).host = s.host := rfl
@[simp] theorem State.enterInterrupt_freeCount (s : State) (q : IrqRequest) : (s.enterInterrupt q).freeCount = s.freeCount := rfl

/-! ## markDirty -/

@[simp] theorem State.markDirty_bank0 (s : State) (a : Word) : (s.markDirty a).bank0 = s.bank0 := rfl
@[simp] theorem State.markDirty_bank1 (s : State) (a : Word) : (s.markDirty a).bank1 = s.bank1 := rfl
@[simp] theorem State.markDirty_high (s : State) (a : Word) : (s.markDirty a).high = s.high := rfl
@[simp] theorem State.markDirty_pc (s : State) (a : Word) : (s.markDirty a).pc = s.pc := rfl
@[simp] theorem State.markDirty_pending (s : State) (a : Word) : (s.markDirty a).pending = s.pending := rfl
@[simp] theorem State.markDirty_sr (s : State) (a : Word) : (s.markDirty a).sr = s.sr := rfl
@[simp] theorem State.markDirty_gbr (s : State) (a : Word) : (s.markDirty a).gbr = s.gbr := rfl
@[simp] theorem State.markDirty_vbr (s : State) (a : Word) : (s.markDirty a).vbr = s.vbr := rfl
@[simp] theorem State.markDirty_ssr (s : State) (a : Word) : (s.markDirty a).ssr = s.ssr := rfl
@[simp] theorem State.markDirty_spc (s : State) (a : Word) : (s.markDirty a).spc = s.spc := rfl
@[simp] theorem State.markDirty_sgr (s : State) (a : Word) : (s.markDirty a).sgr = s.sgr := rfl
@[simp] theorem State.markDirty_dbr (s : State) (a : Word) : (s.markDirty a).dbr = s.dbr := rfl
@[simp] theorem State.markDirty_mach (s : State) (a : Word) : (s.markDirty a).mach = s.mach := rfl
@[simp] theorem State.markDirty_macl (s : State) (a : Word) : (s.markDirty a).macl = s.macl := rfl
@[simp] theorem State.markDirty_pr (s : State) (a : Word) : (s.markDirty a).pr = s.pr := rfl
@[simp] theorem State.markDirty_tra (s : State) (a : Word) : (s.markDirty a).tra = s.tra := rfl
@[simp] theorem State.markDirty_expevt (s : State) (a : Word) : (s.markDirty a).expevt = s.expevt := rfl
@[simp] theorem State.markDirty_intevt (s : State) (a : Word) : (s.markDirty a).intevt = s.intevt := rfl
@[simp] theorem State.markDirty_pteh (s : State) (a : Word) : (s.markDirty a).pteh = s.pteh := rfl
@[simp] theorem State.markDirty_ptel (s : State) (a : Word) : (s.markDirty a).ptel = s.ptel := rfl
@[simp] theorem State.markDirty_mmucr (s : State) (a : Word) : (s.markDirty a).mmucr = s.mmucr := rfl
@[simp] theorem State.markDirty_tlb (s : State) (a : Word) : (s.markDirty a).tlb = s.tlb := rfl
@[simp] theorem State.markDirty_mod (s : State) (a : Word) : (s.markDirty a).mod = s.mod := rfl
@[simp] theorem State.markDirty_rs (s : State) (a : Word) : (s.markDirty a).rs = s.rs := rfl
@[simp] theorem State.markDirty_re (s : State) (a : Word) : (s.markDirty a).re = s.re := rfl
@[simp] theorem State.markDirty_dsr (s : State) (a : Word) : (s.markDirty a).dsr = s.dsr := rfl
@[simp] theorem State.markDirty_a0 (s : State) (a : Word) : (s.markDirty a).a0 = s.a0 := rfl
@[simp] theorem State.markDirty_a0g (s : State) (a : Word) : (s.markDirty a).a0g = s.a0g := rfl
@[simp] theorem State.markDirty_x0 (s : State) (a : Word) : (s.markDirty a).x0 = s.x0 := rfl
@[simp] theorem State.markDirty_x1 (s : State) (a : Word) : (s.markDirty a).x1 = s.x1 := rfl
@[simp] theorem State.markDirty_y0 (s : State) (a : Word) : (s.markDirty a).y0 = s.y0 := rfl
@[simp] theorem State.markDirty_y1 (s : State) (a : Word) : (s.markDirty a).y1 = s.y1 := rfl
@[simp] theorem State.markDirty_ldst (s : State) (a : Word) : (s.markDirty a).ldst = s.ldst := rfl
@[simp] theorem State.markDirty_asleep (s : State) (a : Word) : (s.markDirty a).asleep = s.asleep := rfl
@[simp] theorem State.markDirty_mem (s : State) (a : Word) : (s.markDirty a).mem = s.mem := rfl
@[simp] theorem State.markDirty_params (s : State) (a : Word) : (s.markDirty a).params = s.params := rfl
@[simp] theorem State.markDirty_irq (s : State) (a : Word) : (s.markDirty a).irq = s.irq := rfl
@[simp] theorem State.markDirty_host (s : State) (a : Word) : (s.markDirty a).host = s.host := rfl
@[simp] theorem State.markDirty_freeCount (s : State) (a : Word) : (s.markDirty a).freeCount = s.freeCount := rfl

/-! ## putAt -/

@[simp] theorem State.putAt_bank0 (s : State) (a : Word) (l : List Byte) : (s.putAt a l).bank0 = s.bank0 := rfl
@[simp] theorem State.putAt_bank1 (s : State) (a : Word) (l : List Byte) : (s.putAt a l).bank1 = s.bank1 := rfl
@[simp] theorem State.putAt_high (s : State) (a : Word) (l : List Byte) : (s.putAt a l).high = s.high := rfl
@[simp] theorem State.putAt_pc (s : State) (a : Word) (l : List Byte) : (s.putAt a l).pc = s.pc := rfl
@[simp] theorem State.putAt_pending (s : State) (a : Word) (l : List Byte) : (s.putAt a l).pending = s.pending := rfl
@[simp] theorem State.putAt_sr (s : State) (a : Word) (l : List Byte) : (s.putAt a l).sr = s.sr := rfl
@[simp] theorem State.putAt_gbr (s : State) (a : Word) (l : List Byte) : (s.putAt a l).gbr = s.gbr := rfl
@[simp] theorem State.putAt_vbr (s : State) (a : Word) (l : List Byte) : (s.putAt a l).vbr = s.vbr := rfl
@[simp] theorem State.putAt_ssr (s : State) (a : Word) (l : List Byte) : (s.putAt a l).ssr = s.ssr := rfl
@[simp] theorem State.putAt_spc (s : State) (a : Word) (l : List Byte) : (s.putAt a l).spc = s.spc := rfl
@[simp] theorem State.putAt_sgr (s : State) (a : Word) (l : List Byte) : (s.putAt a l).sgr = s.sgr := rfl
@[simp] theorem State.putAt_dbr (s : State) (a : Word) (l : List Byte) : (s.putAt a l).dbr = s.dbr := rfl
@[simp] theorem State.putAt_mach (s : State) (a : Word) (l : List Byte) : (s.putAt a l).mach = s.mach := rfl
@[simp] theorem State.putAt_macl (s : State) (a : Word) (l : List Byte) : (s.putAt a l).macl = s.macl := rfl
@[simp] theorem State.putAt_pr (s : State) (a : Word) (l : List Byte) : (s.putAt a l).pr = s.pr := rfl
@[simp] theorem State.putAt_tra (s : State) (a : Word) (l : List Byte) : (s.putAt a l).tra = s.tra := rfl
@[simp] theorem State.putAt_expevt (s : State) (a : Word) (l : List Byte) : (s.putAt a l).expevt = s.expevt := rfl
@[simp] theorem State.putAt_intevt (s : State) (a : Word) (l : List Byte) : (s.putAt a l).intevt = s.intevt := rfl
@[simp] theorem State.putAt_pteh (s : State) (a : Word) (l : List Byte) : (s.putAt a l).pteh = s.pteh := rfl
@[simp] theorem State.putAt_ptel (s : State) (a : Word) (l : List Byte) : (s.putAt a l).ptel = s.ptel := rfl
@[simp] theorem State.putAt_mmucr (s : State) (a : Word) (l : List Byte) : (s.putAt a l).mmucr = s.mmucr := rfl
@[simp] theorem State.putAt_tlb (s : State) (a : Word) (l : List Byte) : (s.putAt a l).tlb = s.tlb := rfl
@[simp] theorem State.putAt_mod (s : State) (a : Word) (l : List Byte) : (s.putAt a l).mod = s.mod := rfl
@[simp] theorem State.putAt_rs (s : State) (a : Word) (l : List Byte) : (s.putAt a l).rs = s.rs := rfl
@[simp] theorem State.putAt_re (s : State) (a : Word) (l : List Byte) : (s.putAt a l).re = s.re := rfl
@[simp] theorem State.putAt_dsr (s : State) (a : Word) (l : List Byte) : (s.putAt a l).dsr = s.dsr := rfl
@[simp] theorem State.putAt_a0 (s : State) (a : Word) (l : List Byte) : (s.putAt a l).a0 = s.a0 := rfl
@[simp] theorem State.putAt_a0g (s : State) (a : Word) (l : List Byte) : (s.putAt a l).a0g = s.a0g := rfl
@[simp] theorem State.putAt_x0 (s : State) (a : Word) (l : List Byte) : (s.putAt a l).x0 = s.x0 := rfl
@[simp] theorem State.putAt_x1 (s : State) (a : Word) (l : List Byte) : (s.putAt a l).x1 = s.x1 := rfl
@[simp] theorem State.putAt_y0 (s : State) (a : Word) (l : List Byte) : (s.putAt a l).y0 = s.y0 := rfl
@[simp] theorem State.putAt_y1 (s : State) (a : Word) (l : List Byte) : (s.putAt a l).y1 = s.y1 := rfl
@[simp] theorem State.putAt_ldst (s : State) (a : Word) (l : List Byte) : (s.putAt a l).ldst = s.ldst := rfl
@[simp] theorem State.putAt_asleep (s : State) (a : Word) (l : List Byte) : (s.putAt a l).asleep = s.asleep := rfl
@[simp] theorem State.putAt_params (s : State) (a : Word) (l : List Byte) : (s.putAt a l).params = s.params := rfl
@[simp] theorem State.putAt_irq (s : State) (a : Word) (l : List Byte) : (s.putAt a l).irq = s.irq := rfl
@[simp] theorem State.putAt_host (s : State) (a : Word) (l : List Byte) : (s.putAt a l).host = s.host := rfl
@[simp] theorem State.putAt_freeCount (s : State) (a : Word) (l : List Byte) : (s.putAt a l).freeCount = s.freeCount := rfl

/-! ## loseBlock -/

@[simp] theorem State.loseBlock_bank0 (s : State) (a : Word) (k : Nat → Bool) : (s.loseBlock a k).bank0 = s.bank0 := rfl
@[simp] theorem State.loseBlock_bank1 (s : State) (a : Word) (k : Nat → Bool) : (s.loseBlock a k).bank1 = s.bank1 := rfl
@[simp] theorem State.loseBlock_high (s : State) (a : Word) (k : Nat → Bool) : (s.loseBlock a k).high = s.high := rfl
@[simp] theorem State.loseBlock_pc (s : State) (a : Word) (k : Nat → Bool) : (s.loseBlock a k).pc = s.pc := rfl
@[simp] theorem State.loseBlock_pending (s : State) (a : Word) (k : Nat → Bool) : (s.loseBlock a k).pending = s.pending := rfl
@[simp] theorem State.loseBlock_sr (s : State) (a : Word) (k : Nat → Bool) : (s.loseBlock a k).sr = s.sr := rfl
@[simp] theorem State.loseBlock_gbr (s : State) (a : Word) (k : Nat → Bool) : (s.loseBlock a k).gbr = s.gbr := rfl
@[simp] theorem State.loseBlock_vbr (s : State) (a : Word) (k : Nat → Bool) : (s.loseBlock a k).vbr = s.vbr := rfl
@[simp] theorem State.loseBlock_ssr (s : State) (a : Word) (k : Nat → Bool) : (s.loseBlock a k).ssr = s.ssr := rfl
@[simp] theorem State.loseBlock_spc (s : State) (a : Word) (k : Nat → Bool) : (s.loseBlock a k).spc = s.spc := rfl
@[simp] theorem State.loseBlock_sgr (s : State) (a : Word) (k : Nat → Bool) : (s.loseBlock a k).sgr = s.sgr := rfl
@[simp] theorem State.loseBlock_dbr (s : State) (a : Word) (k : Nat → Bool) : (s.loseBlock a k).dbr = s.dbr := rfl
@[simp] theorem State.loseBlock_mach (s : State) (a : Word) (k : Nat → Bool) : (s.loseBlock a k).mach = s.mach := rfl
@[simp] theorem State.loseBlock_macl (s : State) (a : Word) (k : Nat → Bool) : (s.loseBlock a k).macl = s.macl := rfl
@[simp] theorem State.loseBlock_pr (s : State) (a : Word) (k : Nat → Bool) : (s.loseBlock a k).pr = s.pr := rfl
@[simp] theorem State.loseBlock_tra (s : State) (a : Word) (k : Nat → Bool) : (s.loseBlock a k).tra = s.tra := rfl
@[simp] theorem State.loseBlock_expevt (s : State) (a : Word) (k : Nat → Bool) : (s.loseBlock a k).expevt = s.expevt := rfl
@[simp] theorem State.loseBlock_intevt (s : State) (a : Word) (k : Nat → Bool) : (s.loseBlock a k).intevt = s.intevt := rfl
@[simp] theorem State.loseBlock_tlb (s : State) (a : Word) (k : Nat → Bool) : (s.loseBlock a k).tlb = s.tlb := rfl
@[simp] theorem State.loseBlock_mod (s : State) (a : Word) (k : Nat → Bool) : (s.loseBlock a k).mod = s.mod := rfl
@[simp] theorem State.loseBlock_rs (s : State) (a : Word) (k : Nat → Bool) : (s.loseBlock a k).rs = s.rs := rfl
@[simp] theorem State.loseBlock_re (s : State) (a : Word) (k : Nat → Bool) : (s.loseBlock a k).re = s.re := rfl
@[simp] theorem State.loseBlock_dsr (s : State) (a : Word) (k : Nat → Bool) : (s.loseBlock a k).dsr = s.dsr := rfl
@[simp] theorem State.loseBlock_a0 (s : State) (a : Word) (k : Nat → Bool) : (s.loseBlock a k).a0 = s.a0 := rfl
@[simp] theorem State.loseBlock_a0g (s : State) (a : Word) (k : Nat → Bool) : (s.loseBlock a k).a0g = s.a0g := rfl
@[simp] theorem State.loseBlock_x0 (s : State) (a : Word) (k : Nat → Bool) : (s.loseBlock a k).x0 = s.x0 := rfl
@[simp] theorem State.loseBlock_x1 (s : State) (a : Word) (k : Nat → Bool) : (s.loseBlock a k).x1 = s.x1 := rfl
@[simp] theorem State.loseBlock_y0 (s : State) (a : Word) (k : Nat → Bool) : (s.loseBlock a k).y0 = s.y0 := rfl
@[simp] theorem State.loseBlock_y1 (s : State) (a : Word) (k : Nat → Bool) : (s.loseBlock a k).y1 = s.y1 := rfl
@[simp] theorem State.loseBlock_ldst (s : State) (a : Word) (k : Nat → Bool) : (s.loseBlock a k).ldst = s.ldst := rfl
@[simp] theorem State.loseBlock_asleep (s : State) (a : Word) (k : Nat → Bool) : (s.loseBlock a k).asleep = s.asleep := rfl
@[simp] theorem State.loseBlock_dirtyCode (s : State) (a : Word) (k : Nat → Bool) : (s.loseBlock a k).dirtyCode = s.dirtyCode := rfl
@[simp] theorem State.loseBlock_params (s : State) (a : Word) (k : Nat → Bool) : (s.loseBlock a k).params = s.params := rfl
@[simp] theorem State.loseBlock_irq (s : State) (a : Word) (k : Nat → Bool) : (s.loseBlock a k).irq = s.irq := rfl
@[simp] theorem State.loseBlock_host (s : State) (a : Word) (k : Nat → Bool) : (s.loseBlock a k).host = s.host := rfl

/-! ## loadTlb -/

@[simp] theorem State.loadTlb_bank0 (s : State) : (s.loadTlb).bank0 = s.bank0 := rfl
@[simp] theorem State.loadTlb_bank1 (s : State) : (s.loadTlb).bank1 = s.bank1 := rfl
@[simp] theorem State.loadTlb_high (s : State) : (s.loadTlb).high = s.high := rfl
@[simp] theorem State.loadTlb_pc (s : State) : (s.loadTlb).pc = s.pc := rfl
@[simp] theorem State.loadTlb_pending (s : State) : (s.loadTlb).pending = s.pending := rfl
@[simp] theorem State.loadTlb_sr (s : State) : (s.loadTlb).sr = s.sr := rfl
@[simp] theorem State.loadTlb_gbr (s : State) : (s.loadTlb).gbr = s.gbr := rfl
@[simp] theorem State.loadTlb_vbr (s : State) : (s.loadTlb).vbr = s.vbr := rfl
@[simp] theorem State.loadTlb_ssr (s : State) : (s.loadTlb).ssr = s.ssr := rfl
@[simp] theorem State.loadTlb_spc (s : State) : (s.loadTlb).spc = s.spc := rfl
@[simp] theorem State.loadTlb_sgr (s : State) : (s.loadTlb).sgr = s.sgr := rfl
@[simp] theorem State.loadTlb_dbr (s : State) : (s.loadTlb).dbr = s.dbr := rfl
@[simp] theorem State.loadTlb_mach (s : State) : (s.loadTlb).mach = s.mach := rfl
@[simp] theorem State.loadTlb_macl (s : State) : (s.loadTlb).macl = s.macl := rfl
@[simp] theorem State.loadTlb_pr (s : State) : (s.loadTlb).pr = s.pr := rfl
@[simp] theorem State.loadTlb_tra (s : State) : (s.loadTlb).tra = s.tra := rfl
@[simp] theorem State.loadTlb_expevt (s : State) : (s.loadTlb).expevt = s.expevt := rfl
@[simp] theorem State.loadTlb_intevt (s : State) : (s.loadTlb).intevt = s.intevt := rfl
@[simp] theorem State.loadTlb_pteh (s : State) : (s.loadTlb).pteh = s.pteh := rfl
@[simp] theorem State.loadTlb_ptel (s : State) : (s.loadTlb).ptel = s.ptel := rfl
@[simp] theorem State.loadTlb_mmucr (s : State) : (s.loadTlb).mmucr = s.mmucr := rfl
@[simp] theorem State.loadTlb_mod (s : State) : (s.loadTlb).mod = s.mod := rfl
@[simp] theorem State.loadTlb_rs (s : State) : (s.loadTlb).rs = s.rs := rfl
@[simp] theorem State.loadTlb_re (s : State) : (s.loadTlb).re = s.re := rfl
@[simp] theorem State.loadTlb_dsr (s : State) : (s.loadTlb).dsr = s.dsr := rfl
@[simp] theorem State.loadTlb_a0 (s : State) : (s.loadTlb).a0 = s.a0 := rfl
@[simp] theorem State.loadTlb_a0g (s : State) : (s.loadTlb).a0g = s.a0g := rfl
@[simp] theorem State.loadTlb_x0 (s : State) : (s.loadTlb).x0 = s.x0 := rfl
@[simp] theorem State.loadTlb_x1 (s : State) : (s.loadTlb).x1 = s.x1 := rfl
@[simp] theorem State.loadTlb_y0 (s : State) : (s.loadTlb).y0 = s.y0 := rfl
@[simp] theorem State.loadTlb_y1 (s : State) : (s.loadTlb).y1 = s.y1 := rfl
@[simp] theorem State.loadTlb_ldst (s : State) : (s.loadTlb).ldst = s.ldst := rfl
@[simp] theorem State.loadTlb_asleep (s : State) : (s.loadTlb).asleep = s.asleep := rfl
@[simp] theorem State.loadTlb_mem (s : State) : (s.loadTlb).mem = s.mem := rfl
@[simp] theorem State.loadTlb_dirtyCode (s : State) : (s.loadTlb).dirtyCode = s.dirtyCode := rfl
@[simp] theorem State.loadTlb_params (s : State) : (s.loadTlb).params = s.params := rfl
@[simp] theorem State.loadTlb_irq (s : State) : (s.loadTlb).irq = s.irq := rfl
@[simp] theorem State.loadTlb_host (s : State) : (s.loadTlb).host = s.host := rfl
@[simp] theorem State.loadTlb_freeCount (s : State) : (s.loadTlb).freeCount = s.freeCount := rfl

/-! ## markExtendedRepeat -/

@[simp] theorem State.markExtendedRepeat_bank0 (s : State) : (s.markExtendedRepeat).bank0 = s.bank0 := rfl
@[simp] theorem State.markExtendedRepeat_bank1 (s : State) : (s.markExtendedRepeat).bank1 = s.bank1 := rfl
@[simp] theorem State.markExtendedRepeat_high (s : State) : (s.markExtendedRepeat).high = s.high := rfl
@[simp] theorem State.markExtendedRepeat_pc (s : State) : (s.markExtendedRepeat).pc = s.pc := rfl
@[simp] theorem State.markExtendedRepeat_pending (s : State) : (s.markExtendedRepeat).pending = s.pending := rfl
@[simp] theorem State.markExtendedRepeat_sr (s : State) : (s.markExtendedRepeat).sr = s.sr := rfl
@[simp] theorem State.markExtendedRepeat_gbr (s : State) : (s.markExtendedRepeat).gbr = s.gbr := rfl
@[simp] theorem State.markExtendedRepeat_vbr (s : State) : (s.markExtendedRepeat).vbr = s.vbr := rfl
@[simp] theorem State.markExtendedRepeat_ssr (s : State) : (s.markExtendedRepeat).ssr = s.ssr := rfl
@[simp] theorem State.markExtendedRepeat_spc (s : State) : (s.markExtendedRepeat).spc = s.spc := rfl
@[simp] theorem State.markExtendedRepeat_sgr (s : State) : (s.markExtendedRepeat).sgr = s.sgr := rfl
@[simp] theorem State.markExtendedRepeat_dbr (s : State) : (s.markExtendedRepeat).dbr = s.dbr := rfl
@[simp] theorem State.markExtendedRepeat_mach (s : State) : (s.markExtendedRepeat).mach = s.mach := rfl
@[simp] theorem State.markExtendedRepeat_macl (s : State) : (s.markExtendedRepeat).macl = s.macl := rfl
@[simp] theorem State.markExtendedRepeat_pr (s : State) : (s.markExtendedRepeat).pr = s.pr := rfl
@[simp] theorem State.markExtendedRepeat_tra (s : State) : (s.markExtendedRepeat).tra = s.tra := rfl
@[simp] theorem State.markExtendedRepeat_expevt (s : State) : (s.markExtendedRepeat).expevt = s.expevt := rfl
@[simp] theorem State.markExtendedRepeat_intevt (s : State) : (s.markExtendedRepeat).intevt = s.intevt := rfl
@[simp] theorem State.markExtendedRepeat_pteh (s : State) : (s.markExtendedRepeat).pteh = s.pteh := rfl
@[simp] theorem State.markExtendedRepeat_ptel (s : State) : (s.markExtendedRepeat).ptel = s.ptel := rfl
@[simp] theorem State.markExtendedRepeat_mmucr (s : State) : (s.markExtendedRepeat).mmucr = s.mmucr := rfl
@[simp] theorem State.markExtendedRepeat_tlb (s : State) : (s.markExtendedRepeat).tlb = s.tlb := rfl
@[simp] theorem State.markExtendedRepeat_mod (s : State) : (s.markExtendedRepeat).mod = s.mod := rfl
@[simp] theorem State.markExtendedRepeat_rs (s : State) : (s.markExtendedRepeat).rs = s.rs := rfl
@[simp] theorem State.markExtendedRepeat_dsr (s : State) : (s.markExtendedRepeat).dsr = s.dsr := rfl
@[simp] theorem State.markExtendedRepeat_a0 (s : State) : (s.markExtendedRepeat).a0 = s.a0 := rfl
@[simp] theorem State.markExtendedRepeat_a0g (s : State) : (s.markExtendedRepeat).a0g = s.a0g := rfl
@[simp] theorem State.markExtendedRepeat_x0 (s : State) : (s.markExtendedRepeat).x0 = s.x0 := rfl
@[simp] theorem State.markExtendedRepeat_x1 (s : State) : (s.markExtendedRepeat).x1 = s.x1 := rfl
@[simp] theorem State.markExtendedRepeat_y0 (s : State) : (s.markExtendedRepeat).y0 = s.y0 := rfl
@[simp] theorem State.markExtendedRepeat_y1 (s : State) : (s.markExtendedRepeat).y1 = s.y1 := rfl
@[simp] theorem State.markExtendedRepeat_ldst (s : State) : (s.markExtendedRepeat).ldst = s.ldst := rfl
@[simp] theorem State.markExtendedRepeat_asleep (s : State) : (s.markExtendedRepeat).asleep = s.asleep := rfl
@[simp] theorem State.markExtendedRepeat_mem (s : State) : (s.markExtendedRepeat).mem = s.mem := rfl
@[simp] theorem State.markExtendedRepeat_dirtyCode (s : State) : (s.markExtendedRepeat).dirtyCode = s.dirtyCode := rfl
@[simp] theorem State.markExtendedRepeat_params (s : State) : (s.markExtendedRepeat).params = s.params := rfl
@[simp] theorem State.markExtendedRepeat_irq (s : State) : (s.markExtendedRepeat).irq = s.irq := rfl
@[simp] theorem State.markExtendedRepeat_host (s : State) : (s.markExtendedRepeat).host = s.host := rfl
@[simp] theorem State.markExtendedRepeat_freeCount (s : State) : (s.markExtendedRepeat).freeCount = s.freeCount := rfl

/-! ## placeWord -/

@[simp] theorem State.placeWord_bank0 (s : State) (w : Half) : (s.placeWord w).bank0 = s.bank0 := rfl
@[simp] theorem State.placeWord_bank1 (s : State) (w : Half) : (s.placeWord w).bank1 = s.bank1 := rfl
@[simp] theorem State.placeWord_high (s : State) (w : Half) : (s.placeWord w).high = s.high := rfl
@[simp] theorem State.placeWord_pc (s : State) (w : Half) : (s.placeWord w).pc = s.pc := rfl
@[simp] theorem State.placeWord_pending (s : State) (w : Half) : (s.placeWord w).pending = s.pending := rfl
@[simp] theorem State.placeWord_sr (s : State) (w : Half) : (s.placeWord w).sr = s.sr := rfl
@[simp] theorem State.placeWord_gbr (s : State) (w : Half) : (s.placeWord w).gbr = s.gbr := rfl
@[simp] theorem State.placeWord_vbr (s : State) (w : Half) : (s.placeWord w).vbr = s.vbr := rfl
@[simp] theorem State.placeWord_ssr (s : State) (w : Half) : (s.placeWord w).ssr = s.ssr := rfl
@[simp] theorem State.placeWord_spc (s : State) (w : Half) : (s.placeWord w).spc = s.spc := rfl
@[simp] theorem State.placeWord_sgr (s : State) (w : Half) : (s.placeWord w).sgr = s.sgr := rfl
@[simp] theorem State.placeWord_dbr (s : State) (w : Half) : (s.placeWord w).dbr = s.dbr := rfl
@[simp] theorem State.placeWord_mach (s : State) (w : Half) : (s.placeWord w).mach = s.mach := rfl
@[simp] theorem State.placeWord_macl (s : State) (w : Half) : (s.placeWord w).macl = s.macl := rfl
@[simp] theorem State.placeWord_pr (s : State) (w : Half) : (s.placeWord w).pr = s.pr := rfl
@[simp] theorem State.placeWord_tra (s : State) (w : Half) : (s.placeWord w).tra = s.tra := rfl
@[simp] theorem State.placeWord_expevt (s : State) (w : Half) : (s.placeWord w).expevt = s.expevt := rfl
@[simp] theorem State.placeWord_intevt (s : State) (w : Half) : (s.placeWord w).intevt = s.intevt := rfl
@[simp] theorem State.placeWord_pteh (s : State) (w : Half) : (s.placeWord w).pteh = s.pteh := rfl
@[simp] theorem State.placeWord_ptel (s : State) (w : Half) : (s.placeWord w).ptel = s.ptel := rfl
@[simp] theorem State.placeWord_mmucr (s : State) (w : Half) : (s.placeWord w).mmucr = s.mmucr := rfl
@[simp] theorem State.placeWord_tlb (s : State) (w : Half) : (s.placeWord w).tlb = s.tlb := rfl
@[simp] theorem State.placeWord_mod (s : State) (w : Half) : (s.placeWord w).mod = s.mod := rfl
@[simp] theorem State.placeWord_rs (s : State) (w : Half) : (s.placeWord w).rs = s.rs := rfl
@[simp] theorem State.placeWord_re (s : State) (w : Half) : (s.placeWord w).re = s.re := rfl
@[simp] theorem State.placeWord_dsr (s : State) (w : Half) : (s.placeWord w).dsr = s.dsr := rfl
@[simp] theorem State.placeWord_a0 (s : State) (w : Half) : (s.placeWord w).a0 = s.a0 := rfl
@[simp] theorem State.placeWord_a0g (s : State) (w : Half) : (s.placeWord w).a0g = s.a0g := rfl
@[simp] theorem State.placeWord_x0 (s : State) (w : Half) : (s.placeWord w).x0 = s.x0 := rfl
@[simp] theorem State.placeWord_x1 (s : State) (w : Half) : (s.placeWord w).x1 = s.x1 := rfl
@[simp] theorem State.placeWord_y0 (s : State) (w : Half) : (s.placeWord w).y0 = s.y0 := rfl
@[simp] theorem State.placeWord_y1 (s : State) (w : Half) : (s.placeWord w).y1 = s.y1 := rfl
@[simp] theorem State.placeWord_ldst (s : State) (w : Half) : (s.placeWord w).ldst = s.ldst := rfl
@[simp] theorem State.placeWord_asleep (s : State) (w : Half) : (s.placeWord w).asleep = s.asleep := rfl
@[simp] theorem State.placeWord_dirtyCode (s : State) (w : Half) : (s.placeWord w).dirtyCode = s.dirtyCode := rfl
@[simp] theorem State.placeWord_params (s : State) (w : Half) : (s.placeWord w).params = s.params := rfl
@[simp] theorem State.placeWord_irq (s : State) (w : Half) : (s.placeWord w).irq = s.irq := rfl
@[simp] theorem State.placeWord_host (s : State) (w : Half) : (s.placeWord w).host = s.host := rfl
@[simp] theorem State.placeWord_freeCount (s : State) (w : Half) : (s.placeWord w).freeCount = s.freeCount := rfl

/-! ## mapCode -/

@[simp] theorem State.mapCode_bank0 (s : State) : (s.mapCode).bank0 = s.bank0 := rfl
@[simp] theorem State.mapCode_bank1 (s : State) : (s.mapCode).bank1 = s.bank1 := rfl
@[simp] theorem State.mapCode_high (s : State) : (s.mapCode).high = s.high := rfl
@[simp] theorem State.mapCode_pc (s : State) : (s.mapCode).pc = s.pc := rfl
@[simp] theorem State.mapCode_pending (s : State) : (s.mapCode).pending = s.pending := rfl
@[simp] theorem State.mapCode_sr (s : State) : (s.mapCode).sr = s.sr := rfl
@[simp] theorem State.mapCode_gbr (s : State) : (s.mapCode).gbr = s.gbr := rfl
@[simp] theorem State.mapCode_vbr (s : State) : (s.mapCode).vbr = s.vbr := rfl
@[simp] theorem State.mapCode_ssr (s : State) : (s.mapCode).ssr = s.ssr := rfl
@[simp] theorem State.mapCode_spc (s : State) : (s.mapCode).spc = s.spc := rfl
@[simp] theorem State.mapCode_sgr (s : State) : (s.mapCode).sgr = s.sgr := rfl
@[simp] theorem State.mapCode_dbr (s : State) : (s.mapCode).dbr = s.dbr := rfl
@[simp] theorem State.mapCode_mach (s : State) : (s.mapCode).mach = s.mach := rfl
@[simp] theorem State.mapCode_macl (s : State) : (s.mapCode).macl = s.macl := rfl
@[simp] theorem State.mapCode_pr (s : State) : (s.mapCode).pr = s.pr := rfl
@[simp] theorem State.mapCode_tra (s : State) : (s.mapCode).tra = s.tra := rfl
@[simp] theorem State.mapCode_expevt (s : State) : (s.mapCode).expevt = s.expevt := rfl
@[simp] theorem State.mapCode_intevt (s : State) : (s.mapCode).intevt = s.intevt := rfl
@[simp] theorem State.mapCode_pteh (s : State) : (s.mapCode).pteh = s.pteh := rfl
@[simp] theorem State.mapCode_ptel (s : State) : (s.mapCode).ptel = s.ptel := rfl
@[simp] theorem State.mapCode_mmucr (s : State) : (s.mapCode).mmucr = s.mmucr := rfl
@[simp] theorem State.mapCode_tlb (s : State) : (s.mapCode).tlb = s.tlb := rfl
@[simp] theorem State.mapCode_mod (s : State) : (s.mapCode).mod = s.mod := rfl
@[simp] theorem State.mapCode_rs (s : State) : (s.mapCode).rs = s.rs := rfl
@[simp] theorem State.mapCode_re (s : State) : (s.mapCode).re = s.re := rfl
@[simp] theorem State.mapCode_dsr (s : State) : (s.mapCode).dsr = s.dsr := rfl
@[simp] theorem State.mapCode_a0 (s : State) : (s.mapCode).a0 = s.a0 := rfl
@[simp] theorem State.mapCode_a0g (s : State) : (s.mapCode).a0g = s.a0g := rfl
@[simp] theorem State.mapCode_x0 (s : State) : (s.mapCode).x0 = s.x0 := rfl
@[simp] theorem State.mapCode_x1 (s : State) : (s.mapCode).x1 = s.x1 := rfl
@[simp] theorem State.mapCode_y0 (s : State) : (s.mapCode).y0 = s.y0 := rfl
@[simp] theorem State.mapCode_y1 (s : State) : (s.mapCode).y1 = s.y1 := rfl
@[simp] theorem State.mapCode_ldst (s : State) : (s.mapCode).ldst = s.ldst := rfl
@[simp] theorem State.mapCode_asleep (s : State) : (s.mapCode).asleep = s.asleep := rfl
@[simp] theorem State.mapCode_mem (s : State) : (s.mapCode).mem = s.mem := rfl
@[simp] theorem State.mapCode_dirtyCode (s : State) : (s.mapCode).dirtyCode = s.dirtyCode := rfl
@[simp] theorem State.mapCode_irq (s : State) : (s.mapCode).irq = s.irq := rfl
@[simp] theorem State.mapCode_host (s : State) : (s.mapCode).host = s.host := rfl
@[simp] theorem State.mapCode_freeCount (s : State) : (s.mapCode).freeCount = s.freeCount := rfl

/-! ## irqTaken -/

@[simp] theorem State.irqTaken_bank0 (s : State) : (s.irqTaken).bank0 = s.bank0 := rfl
@[simp] theorem State.irqTaken_bank1 (s : State) : (s.irqTaken).bank1 = s.bank1 := rfl
@[simp] theorem State.irqTaken_high (s : State) : (s.irqTaken).high = s.high := rfl
@[simp] theorem State.irqTaken_pc (s : State) : (s.irqTaken).pc = s.pc := rfl
@[simp] theorem State.irqTaken_pending (s : State) : (s.irqTaken).pending = s.pending := rfl
@[simp] theorem State.irqTaken_sr (s : State) : (s.irqTaken).sr = s.sr := rfl
@[simp] theorem State.irqTaken_gbr (s : State) : (s.irqTaken).gbr = s.gbr := rfl
@[simp] theorem State.irqTaken_vbr (s : State) : (s.irqTaken).vbr = s.vbr := rfl
@[simp] theorem State.irqTaken_ssr (s : State) : (s.irqTaken).ssr = s.ssr := rfl
@[simp] theorem State.irqTaken_spc (s : State) : (s.irqTaken).spc = s.spc := rfl
@[simp] theorem State.irqTaken_sgr (s : State) : (s.irqTaken).sgr = s.sgr := rfl
@[simp] theorem State.irqTaken_dbr (s : State) : (s.irqTaken).dbr = s.dbr := rfl
@[simp] theorem State.irqTaken_mach (s : State) : (s.irqTaken).mach = s.mach := rfl
@[simp] theorem State.irqTaken_macl (s : State) : (s.irqTaken).macl = s.macl := rfl
@[simp] theorem State.irqTaken_pr (s : State) : (s.irqTaken).pr = s.pr := rfl
@[simp] theorem State.irqTaken_tra (s : State) : (s.irqTaken).tra = s.tra := rfl
@[simp] theorem State.irqTaken_expevt (s : State) : (s.irqTaken).expevt = s.expevt := rfl
@[simp] theorem State.irqTaken_intevt (s : State) : (s.irqTaken).intevt = s.intevt := rfl
@[simp] theorem State.irqTaken_pteh (s : State) : (s.irqTaken).pteh = s.pteh := rfl
@[simp] theorem State.irqTaken_ptel (s : State) : (s.irqTaken).ptel = s.ptel := rfl
@[simp] theorem State.irqTaken_mmucr (s : State) : (s.irqTaken).mmucr = s.mmucr := rfl
@[simp] theorem State.irqTaken_tlb (s : State) : (s.irqTaken).tlb = s.tlb := rfl
@[simp] theorem State.irqTaken_mod (s : State) : (s.irqTaken).mod = s.mod := rfl
@[simp] theorem State.irqTaken_rs (s : State) : (s.irqTaken).rs = s.rs := rfl
@[simp] theorem State.irqTaken_re (s : State) : (s.irqTaken).re = s.re := rfl
@[simp] theorem State.irqTaken_dsr (s : State) : (s.irqTaken).dsr = s.dsr := rfl
@[simp] theorem State.irqTaken_a0 (s : State) : (s.irqTaken).a0 = s.a0 := rfl
@[simp] theorem State.irqTaken_a0g (s : State) : (s.irqTaken).a0g = s.a0g := rfl
@[simp] theorem State.irqTaken_x0 (s : State) : (s.irqTaken).x0 = s.x0 := rfl
@[simp] theorem State.irqTaken_x1 (s : State) : (s.irqTaken).x1 = s.x1 := rfl
@[simp] theorem State.irqTaken_y0 (s : State) : (s.irqTaken).y0 = s.y0 := rfl
@[simp] theorem State.irqTaken_y1 (s : State) : (s.irqTaken).y1 = s.y1 := rfl
@[simp] theorem State.irqTaken_ldst (s : State) : (s.irqTaken).ldst = s.ldst := rfl
@[simp] theorem State.irqTaken_asleep (s : State) : (s.irqTaken).asleep = s.asleep := rfl
@[simp] theorem State.irqTaken_mem (s : State) : (s.irqTaken).mem = s.mem := rfl
@[simp] theorem State.irqTaken_dirtyCode (s : State) : (s.irqTaken).dirtyCode = s.dirtyCode := rfl
@[simp] theorem State.irqTaken_params (s : State) : (s.irqTaken).params = s.params := rfl
@[simp] theorem State.irqTaken_host (s : State) : (s.irqTaken).host = s.host := rfl
@[simp] theorem State.irqTaken_freeCount (s : State) : (s.irqTaken).freeCount = s.freeCount := rfl

/-! ## linked -/

@[simp] theorem State.linked_bank0 (s : State) : (s.linked).bank0 = s.bank0 := rfl
@[simp] theorem State.linked_bank1 (s : State) : (s.linked).bank1 = s.bank1 := rfl
@[simp] theorem State.linked_high (s : State) : (s.linked).high = s.high := rfl
@[simp] theorem State.linked_pc (s : State) : (s.linked).pc = s.pc := rfl
@[simp] theorem State.linked_pending (s : State) : (s.linked).pending = s.pending := rfl
@[simp] theorem State.linked_sr (s : State) : (s.linked).sr = s.sr := rfl
@[simp] theorem State.linked_gbr (s : State) : (s.linked).gbr = s.gbr := rfl
@[simp] theorem State.linked_vbr (s : State) : (s.linked).vbr = s.vbr := rfl
@[simp] theorem State.linked_ssr (s : State) : (s.linked).ssr = s.ssr := rfl
@[simp] theorem State.linked_spc (s : State) : (s.linked).spc = s.spc := rfl
@[simp] theorem State.linked_sgr (s : State) : (s.linked).sgr = s.sgr := rfl
@[simp] theorem State.linked_dbr (s : State) : (s.linked).dbr = s.dbr := rfl
@[simp] theorem State.linked_mach (s : State) : (s.linked).mach = s.mach := rfl
@[simp] theorem State.linked_macl (s : State) : (s.linked).macl = s.macl := rfl
@[simp] theorem State.linked_tra (s : State) : (s.linked).tra = s.tra := rfl
@[simp] theorem State.linked_expevt (s : State) : (s.linked).expevt = s.expevt := rfl
@[simp] theorem State.linked_intevt (s : State) : (s.linked).intevt = s.intevt := rfl
@[simp] theorem State.linked_pteh (s : State) : (s.linked).pteh = s.pteh := rfl
@[simp] theorem State.linked_ptel (s : State) : (s.linked).ptel = s.ptel := rfl
@[simp] theorem State.linked_mmucr (s : State) : (s.linked).mmucr = s.mmucr := rfl
@[simp] theorem State.linked_tlb (s : State) : (s.linked).tlb = s.tlb := rfl
@[simp] theorem State.linked_mod (s : State) : (s.linked).mod = s.mod := rfl
@[simp] theorem State.linked_rs (s : State) : (s.linked).rs = s.rs := rfl
@[simp] theorem State.linked_re (s : State) : (s.linked).re = s.re := rfl
@[simp] theorem State.linked_dsr (s : State) : (s.linked).dsr = s.dsr := rfl
@[simp] theorem State.linked_a0 (s : State) : (s.linked).a0 = s.a0 := rfl
@[simp] theorem State.linked_a0g (s : State) : (s.linked).a0g = s.a0g := rfl
@[simp] theorem State.linked_x0 (s : State) : (s.linked).x0 = s.x0 := rfl
@[simp] theorem State.linked_x1 (s : State) : (s.linked).x1 = s.x1 := rfl
@[simp] theorem State.linked_y0 (s : State) : (s.linked).y0 = s.y0 := rfl
@[simp] theorem State.linked_y1 (s : State) : (s.linked).y1 = s.y1 := rfl
@[simp] theorem State.linked_ldst (s : State) : (s.linked).ldst = s.ldst := rfl
@[simp] theorem State.linked_asleep (s : State) : (s.linked).asleep = s.asleep := rfl
@[simp] theorem State.linked_mem (s : State) : (s.linked).mem = s.mem := rfl
@[simp] theorem State.linked_dirtyCode (s : State) : (s.linked).dirtyCode = s.dirtyCode := rfl
@[simp] theorem State.linked_params (s : State) : (s.linked).params = s.params := rfl
@[simp] theorem State.linked_irq (s : State) : (s.linked).irq = s.irq := rfl
@[simp] theorem State.linked_host (s : State) : (s.linked).host = s.host := rfl
@[simp] theorem State.linked_freeCount (s : State) : (s.linked).freeCount = s.freeCount := rfl

/-! ## hostTaken -/

@[simp] theorem State.hostTaken_bank0 (s : State) (a : Word) : (s.hostTaken a).bank0 = s.bank0 := by
  unfold State.hostTaken; split <;> rfl
@[simp] theorem State.hostTaken_bank1 (s : State) (a : Word) : (s.hostTaken a).bank1 = s.bank1 := by
  unfold State.hostTaken; split <;> rfl
@[simp] theorem State.hostTaken_high (s : State) (a : Word) : (s.hostTaken a).high = s.high := by
  unfold State.hostTaken; split <;> rfl
@[simp] theorem State.hostTaken_pc (s : State) (a : Word) : (s.hostTaken a).pc = s.pc := by
  unfold State.hostTaken; split <;> rfl
@[simp] theorem State.hostTaken_pending (s : State) (a : Word) : (s.hostTaken a).pending = s.pending := by
  unfold State.hostTaken; split <;> rfl
@[simp] theorem State.hostTaken_sr (s : State) (a : Word) : (s.hostTaken a).sr = s.sr := by
  unfold State.hostTaken; split <;> rfl
@[simp] theorem State.hostTaken_gbr (s : State) (a : Word) : (s.hostTaken a).gbr = s.gbr := by
  unfold State.hostTaken; split <;> rfl
@[simp] theorem State.hostTaken_vbr (s : State) (a : Word) : (s.hostTaken a).vbr = s.vbr := by
  unfold State.hostTaken; split <;> rfl
@[simp] theorem State.hostTaken_ssr (s : State) (a : Word) : (s.hostTaken a).ssr = s.ssr := by
  unfold State.hostTaken; split <;> rfl
@[simp] theorem State.hostTaken_spc (s : State) (a : Word) : (s.hostTaken a).spc = s.spc := by
  unfold State.hostTaken; split <;> rfl
@[simp] theorem State.hostTaken_sgr (s : State) (a : Word) : (s.hostTaken a).sgr = s.sgr := by
  unfold State.hostTaken; split <;> rfl
@[simp] theorem State.hostTaken_dbr (s : State) (a : Word) : (s.hostTaken a).dbr = s.dbr := by
  unfold State.hostTaken; split <;> rfl
@[simp] theorem State.hostTaken_mach (s : State) (a : Word) : (s.hostTaken a).mach = s.mach := by
  unfold State.hostTaken; split <;> rfl
@[simp] theorem State.hostTaken_macl (s : State) (a : Word) : (s.hostTaken a).macl = s.macl := by
  unfold State.hostTaken; split <;> rfl
@[simp] theorem State.hostTaken_pr (s : State) (a : Word) : (s.hostTaken a).pr = s.pr := by
  unfold State.hostTaken; split <;> rfl
@[simp] theorem State.hostTaken_tra (s : State) (a : Word) : (s.hostTaken a).tra = s.tra := by
  unfold State.hostTaken; split <;> rfl
@[simp] theorem State.hostTaken_expevt (s : State) (a : Word) : (s.hostTaken a).expevt = s.expevt := by
  unfold State.hostTaken; split <;> rfl
@[simp] theorem State.hostTaken_intevt (s : State) (a : Word) : (s.hostTaken a).intevt = s.intevt := by
  unfold State.hostTaken; split <;> rfl
@[simp] theorem State.hostTaken_pteh (s : State) (a : Word) : (s.hostTaken a).pteh = s.pteh := by
  unfold State.hostTaken; split <;> rfl
@[simp] theorem State.hostTaken_ptel (s : State) (a : Word) : (s.hostTaken a).ptel = s.ptel := by
  unfold State.hostTaken; split <;> rfl
@[simp] theorem State.hostTaken_mmucr (s : State) (a : Word) : (s.hostTaken a).mmucr = s.mmucr := by
  unfold State.hostTaken; split <;> rfl
@[simp] theorem State.hostTaken_tlb (s : State) (a : Word) : (s.hostTaken a).tlb = s.tlb := by
  unfold State.hostTaken; split <;> rfl
@[simp] theorem State.hostTaken_mod (s : State) (a : Word) : (s.hostTaken a).mod = s.mod := by
  unfold State.hostTaken; split <;> rfl
@[simp] theorem State.hostTaken_rs (s : State) (a : Word) : (s.hostTaken a).rs = s.rs := by
  unfold State.hostTaken; split <;> rfl
@[simp] theorem State.hostTaken_re (s : State) (a : Word) : (s.hostTaken a).re = s.re := by
  unfold State.hostTaken; split <;> rfl
@[simp] theorem State.hostTaken_dsr (s : State) (a : Word) : (s.hostTaken a).dsr = s.dsr := by
  unfold State.hostTaken; split <;> rfl
@[simp] theorem State.hostTaken_a0 (s : State) (a : Word) : (s.hostTaken a).a0 = s.a0 := by
  unfold State.hostTaken; split <;> rfl
@[simp] theorem State.hostTaken_a0g (s : State) (a : Word) : (s.hostTaken a).a0g = s.a0g := by
  unfold State.hostTaken; split <;> rfl
@[simp] theorem State.hostTaken_x0 (s : State) (a : Word) : (s.hostTaken a).x0 = s.x0 := by
  unfold State.hostTaken; split <;> rfl
@[simp] theorem State.hostTaken_x1 (s : State) (a : Word) : (s.hostTaken a).x1 = s.x1 := by
  unfold State.hostTaken; split <;> rfl
@[simp] theorem State.hostTaken_y0 (s : State) (a : Word) : (s.hostTaken a).y0 = s.y0 := by
  unfold State.hostTaken; split <;> rfl
@[simp] theorem State.hostTaken_y1 (s : State) (a : Word) : (s.hostTaken a).y1 = s.y1 := by
  unfold State.hostTaken; split <;> rfl
@[simp] theorem State.hostTaken_ldst (s : State) (a : Word) : (s.hostTaken a).ldst = s.ldst := by
  unfold State.hostTaken; split <;> rfl
@[simp] theorem State.hostTaken_asleep (s : State) (a : Word) : (s.hostTaken a).asleep = s.asleep := by
  unfold State.hostTaken; split <;> rfl
@[simp] theorem State.hostTaken_mem (s : State) (a : Word) : (s.hostTaken a).mem = s.mem := by
  unfold State.hostTaken; split <;> rfl
@[simp] theorem State.hostTaken_dirtyCode (s : State) (a : Word) : (s.hostTaken a).dirtyCode = s.dirtyCode := by
  unfold State.hostTaken; split <;> rfl
@[simp] theorem State.hostTaken_params (s : State) (a : Word) : (s.hostTaken a).params = s.params := by
  unfold State.hostTaken; split <;> rfl
@[simp] theorem State.hostTaken_irq (s : State) (a : Word) : (s.hostTaken a).irq = s.irq := by
  unfold State.hostTaken; split <;> rfl
@[simp] theorem State.hostTaken_freeCount (s : State) (a : Word) : (s.hostTaken a).freeCount = s.freeCount := by
  unfold State.hostTaken; split <;> rfl

/-! ## setMac -/

@[simp] theorem State.setMac_bank0 (s : State) (v : BitVec 64) : (s.setMac v).bank0 = s.bank0 := rfl
@[simp] theorem State.setMac_bank1 (s : State) (v : BitVec 64) : (s.setMac v).bank1 = s.bank1 := rfl
@[simp] theorem State.setMac_high (s : State) (v : BitVec 64) : (s.setMac v).high = s.high := rfl
@[simp] theorem State.setMac_pc (s : State) (v : BitVec 64) : (s.setMac v).pc = s.pc := rfl
@[simp] theorem State.setMac_pending (s : State) (v : BitVec 64) : (s.setMac v).pending = s.pending := rfl
@[simp] theorem State.setMac_sr (s : State) (v : BitVec 64) : (s.setMac v).sr = s.sr := rfl
@[simp] theorem State.setMac_gbr (s : State) (v : BitVec 64) : (s.setMac v).gbr = s.gbr := rfl
@[simp] theorem State.setMac_vbr (s : State) (v : BitVec 64) : (s.setMac v).vbr = s.vbr := rfl
@[simp] theorem State.setMac_ssr (s : State) (v : BitVec 64) : (s.setMac v).ssr = s.ssr := rfl
@[simp] theorem State.setMac_spc (s : State) (v : BitVec 64) : (s.setMac v).spc = s.spc := rfl
@[simp] theorem State.setMac_sgr (s : State) (v : BitVec 64) : (s.setMac v).sgr = s.sgr := rfl
@[simp] theorem State.setMac_dbr (s : State) (v : BitVec 64) : (s.setMac v).dbr = s.dbr := rfl
@[simp] theorem State.setMac_pr (s : State) (v : BitVec 64) : (s.setMac v).pr = s.pr := rfl
@[simp] theorem State.setMac_tra (s : State) (v : BitVec 64) : (s.setMac v).tra = s.tra := rfl
@[simp] theorem State.setMac_expevt (s : State) (v : BitVec 64) : (s.setMac v).expevt = s.expevt := rfl
@[simp] theorem State.setMac_intevt (s : State) (v : BitVec 64) : (s.setMac v).intevt = s.intevt := rfl
@[simp] theorem State.setMac_pteh (s : State) (v : BitVec 64) : (s.setMac v).pteh = s.pteh := rfl
@[simp] theorem State.setMac_ptel (s : State) (v : BitVec 64) : (s.setMac v).ptel = s.ptel := rfl
@[simp] theorem State.setMac_mmucr (s : State) (v : BitVec 64) : (s.setMac v).mmucr = s.mmucr := rfl
@[simp] theorem State.setMac_tlb (s : State) (v : BitVec 64) : (s.setMac v).tlb = s.tlb := rfl
@[simp] theorem State.setMac_mod (s : State) (v : BitVec 64) : (s.setMac v).mod = s.mod := rfl
@[simp] theorem State.setMac_rs (s : State) (v : BitVec 64) : (s.setMac v).rs = s.rs := rfl
@[simp] theorem State.setMac_re (s : State) (v : BitVec 64) : (s.setMac v).re = s.re := rfl
@[simp] theorem State.setMac_dsr (s : State) (v : BitVec 64) : (s.setMac v).dsr = s.dsr := rfl
@[simp] theorem State.setMac_a0 (s : State) (v : BitVec 64) : (s.setMac v).a0 = s.a0 := rfl
@[simp] theorem State.setMac_a0g (s : State) (v : BitVec 64) : (s.setMac v).a0g = s.a0g := rfl
@[simp] theorem State.setMac_x0 (s : State) (v : BitVec 64) : (s.setMac v).x0 = s.x0 := rfl
@[simp] theorem State.setMac_x1 (s : State) (v : BitVec 64) : (s.setMac v).x1 = s.x1 := rfl
@[simp] theorem State.setMac_y0 (s : State) (v : BitVec 64) : (s.setMac v).y0 = s.y0 := rfl
@[simp] theorem State.setMac_y1 (s : State) (v : BitVec 64) : (s.setMac v).y1 = s.y1 := rfl
@[simp] theorem State.setMac_ldst (s : State) (v : BitVec 64) : (s.setMac v).ldst = s.ldst := rfl
@[simp] theorem State.setMac_asleep (s : State) (v : BitVec 64) : (s.setMac v).asleep = s.asleep := rfl
@[simp] theorem State.setMac_mem (s : State) (v : BitVec 64) : (s.setMac v).mem = s.mem := rfl
@[simp] theorem State.setMac_dirtyCode (s : State) (v : BitVec 64) : (s.setMac v).dirtyCode = s.dirtyCode := rfl
@[simp] theorem State.setMac_params (s : State) (v : BitVec 64) : (s.setMac v).params = s.params := rfl
@[simp] theorem State.setMac_irq (s : State) (v : BitVec 64) : (s.setMac v).irq = s.irq := rfl
@[simp] theorem State.setMac_host (s : State) (v : BitVec 64) : (s.setMac v).host = s.host := rfl
@[simp] theorem State.setMac_freeCount (s : State) (v : BitVec 64) : (s.setMac v).freeCount = s.freeCount := rfl

/-! ## setMacl -/

@[simp] theorem State.setMacl_bank0 (s : State) (v : Word) : (s.setMacl v).bank0 = s.bank0 := rfl
@[simp] theorem State.setMacl_bank1 (s : State) (v : Word) : (s.setMacl v).bank1 = s.bank1 := rfl
@[simp] theorem State.setMacl_high (s : State) (v : Word) : (s.setMacl v).high = s.high := rfl
@[simp] theorem State.setMacl_pc (s : State) (v : Word) : (s.setMacl v).pc = s.pc := rfl
@[simp] theorem State.setMacl_pending (s : State) (v : Word) : (s.setMacl v).pending = s.pending := rfl
@[simp] theorem State.setMacl_sr (s : State) (v : Word) : (s.setMacl v).sr = s.sr := rfl
@[simp] theorem State.setMacl_gbr (s : State) (v : Word) : (s.setMacl v).gbr = s.gbr := rfl
@[simp] theorem State.setMacl_vbr (s : State) (v : Word) : (s.setMacl v).vbr = s.vbr := rfl
@[simp] theorem State.setMacl_ssr (s : State) (v : Word) : (s.setMacl v).ssr = s.ssr := rfl
@[simp] theorem State.setMacl_spc (s : State) (v : Word) : (s.setMacl v).spc = s.spc := rfl
@[simp] theorem State.setMacl_sgr (s : State) (v : Word) : (s.setMacl v).sgr = s.sgr := rfl
@[simp] theorem State.setMacl_dbr (s : State) (v : Word) : (s.setMacl v).dbr = s.dbr := rfl
@[simp] theorem State.setMacl_mach (s : State) (v : Word) : (s.setMacl v).mach = s.mach := rfl
@[simp] theorem State.setMacl_pr (s : State) (v : Word) : (s.setMacl v).pr = s.pr := rfl
@[simp] theorem State.setMacl_tra (s : State) (v : Word) : (s.setMacl v).tra = s.tra := rfl
@[simp] theorem State.setMacl_expevt (s : State) (v : Word) : (s.setMacl v).expevt = s.expevt := rfl
@[simp] theorem State.setMacl_intevt (s : State) (v : Word) : (s.setMacl v).intevt = s.intevt := rfl
@[simp] theorem State.setMacl_pteh (s : State) (v : Word) : (s.setMacl v).pteh = s.pteh := rfl
@[simp] theorem State.setMacl_ptel (s : State) (v : Word) : (s.setMacl v).ptel = s.ptel := rfl
@[simp] theorem State.setMacl_mmucr (s : State) (v : Word) : (s.setMacl v).mmucr = s.mmucr := rfl
@[simp] theorem State.setMacl_tlb (s : State) (v : Word) : (s.setMacl v).tlb = s.tlb := rfl
@[simp] theorem State.setMacl_mod (s : State) (v : Word) : (s.setMacl v).mod = s.mod := rfl
@[simp] theorem State.setMacl_rs (s : State) (v : Word) : (s.setMacl v).rs = s.rs := rfl
@[simp] theorem State.setMacl_re (s : State) (v : Word) : (s.setMacl v).re = s.re := rfl
@[simp] theorem State.setMacl_dsr (s : State) (v : Word) : (s.setMacl v).dsr = s.dsr := rfl
@[simp] theorem State.setMacl_a0 (s : State) (v : Word) : (s.setMacl v).a0 = s.a0 := rfl
@[simp] theorem State.setMacl_a0g (s : State) (v : Word) : (s.setMacl v).a0g = s.a0g := rfl
@[simp] theorem State.setMacl_x0 (s : State) (v : Word) : (s.setMacl v).x0 = s.x0 := rfl
@[simp] theorem State.setMacl_x1 (s : State) (v : Word) : (s.setMacl v).x1 = s.x1 := rfl
@[simp] theorem State.setMacl_y0 (s : State) (v : Word) : (s.setMacl v).y0 = s.y0 := rfl
@[simp] theorem State.setMacl_y1 (s : State) (v : Word) : (s.setMacl v).y1 = s.y1 := rfl
@[simp] theorem State.setMacl_ldst (s : State) (v : Word) : (s.setMacl v).ldst = s.ldst := rfl
@[simp] theorem State.setMacl_asleep (s : State) (v : Word) : (s.setMacl v).asleep = s.asleep := rfl
@[simp] theorem State.setMacl_mem (s : State) (v : Word) : (s.setMacl v).mem = s.mem := rfl
@[simp] theorem State.setMacl_dirtyCode (s : State) (v : Word) : (s.setMacl v).dirtyCode = s.dirtyCode := rfl
@[simp] theorem State.setMacl_params (s : State) (v : Word) : (s.setMacl v).params = s.params := rfl
@[simp] theorem State.setMacl_irq (s : State) (v : Word) : (s.setMacl v).irq = s.irq := rfl
@[simp] theorem State.setMacl_host (s : State) (v : Word) : (s.setMacl v).host = s.host := rfl
@[simp] theorem State.setMacl_freeCount (s : State) (v : Word) : (s.setMacl v).freeCount = s.freeCount := rfl

/-! ## setDsr -/

@[simp] theorem State.setDsr_bank0 (s : State) (v : Word) : (s.setDsr v).bank0 = s.bank0 := rfl
@[simp] theorem State.setDsr_bank1 (s : State) (v : Word) : (s.setDsr v).bank1 = s.bank1 := rfl
@[simp] theorem State.setDsr_high (s : State) (v : Word) : (s.setDsr v).high = s.high := rfl
@[simp] theorem State.setDsr_pc (s : State) (v : Word) : (s.setDsr v).pc = s.pc := rfl
@[simp] theorem State.setDsr_pending (s : State) (v : Word) : (s.setDsr v).pending = s.pending := rfl
@[simp] theorem State.setDsr_sr (s : State) (v : Word) : (s.setDsr v).sr = s.sr := rfl
@[simp] theorem State.setDsr_gbr (s : State) (v : Word) : (s.setDsr v).gbr = s.gbr := rfl
@[simp] theorem State.setDsr_vbr (s : State) (v : Word) : (s.setDsr v).vbr = s.vbr := rfl
@[simp] theorem State.setDsr_ssr (s : State) (v : Word) : (s.setDsr v).ssr = s.ssr := rfl
@[simp] theorem State.setDsr_spc (s : State) (v : Word) : (s.setDsr v).spc = s.spc := rfl
@[simp] theorem State.setDsr_sgr (s : State) (v : Word) : (s.setDsr v).sgr = s.sgr := rfl
@[simp] theorem State.setDsr_dbr (s : State) (v : Word) : (s.setDsr v).dbr = s.dbr := rfl
@[simp] theorem State.setDsr_mach (s : State) (v : Word) : (s.setDsr v).mach = s.mach := rfl
@[simp] theorem State.setDsr_macl (s : State) (v : Word) : (s.setDsr v).macl = s.macl := rfl
@[simp] theorem State.setDsr_pr (s : State) (v : Word) : (s.setDsr v).pr = s.pr := rfl
@[simp] theorem State.setDsr_tra (s : State) (v : Word) : (s.setDsr v).tra = s.tra := rfl
@[simp] theorem State.setDsr_expevt (s : State) (v : Word) : (s.setDsr v).expevt = s.expevt := rfl
@[simp] theorem State.setDsr_intevt (s : State) (v : Word) : (s.setDsr v).intevt = s.intevt := rfl
@[simp] theorem State.setDsr_pteh (s : State) (v : Word) : (s.setDsr v).pteh = s.pteh := rfl
@[simp] theorem State.setDsr_ptel (s : State) (v : Word) : (s.setDsr v).ptel = s.ptel := rfl
@[simp] theorem State.setDsr_mmucr (s : State) (v : Word) : (s.setDsr v).mmucr = s.mmucr := rfl
@[simp] theorem State.setDsr_tlb (s : State) (v : Word) : (s.setDsr v).tlb = s.tlb := rfl
@[simp] theorem State.setDsr_mod (s : State) (v : Word) : (s.setDsr v).mod = s.mod := rfl
@[simp] theorem State.setDsr_rs (s : State) (v : Word) : (s.setDsr v).rs = s.rs := rfl
@[simp] theorem State.setDsr_re (s : State) (v : Word) : (s.setDsr v).re = s.re := rfl
@[simp] theorem State.setDsr_a0 (s : State) (v : Word) : (s.setDsr v).a0 = s.a0 := rfl
@[simp] theorem State.setDsr_a0g (s : State) (v : Word) : (s.setDsr v).a0g = s.a0g := rfl
@[simp] theorem State.setDsr_x0 (s : State) (v : Word) : (s.setDsr v).x0 = s.x0 := rfl
@[simp] theorem State.setDsr_x1 (s : State) (v : Word) : (s.setDsr v).x1 = s.x1 := rfl
@[simp] theorem State.setDsr_y0 (s : State) (v : Word) : (s.setDsr v).y0 = s.y0 := rfl
@[simp] theorem State.setDsr_y1 (s : State) (v : Word) : (s.setDsr v).y1 = s.y1 := rfl
@[simp] theorem State.setDsr_ldst (s : State) (v : Word) : (s.setDsr v).ldst = s.ldst := rfl
@[simp] theorem State.setDsr_asleep (s : State) (v : Word) : (s.setDsr v).asleep = s.asleep := rfl
@[simp] theorem State.setDsr_mem (s : State) (v : Word) : (s.setDsr v).mem = s.mem := rfl
@[simp] theorem State.setDsr_dirtyCode (s : State) (v : Word) : (s.setDsr v).dirtyCode = s.dirtyCode := rfl
@[simp] theorem State.setDsr_params (s : State) (v : Word) : (s.setDsr v).params = s.params := rfl
@[simp] theorem State.setDsr_irq (s : State) (v : Word) : (s.setDsr v).irq = s.irq := rfl
@[simp] theorem State.setDsr_host (s : State) (v : Word) : (s.setDsr v).host = s.host := rfl
@[simp] theorem State.setDsr_freeCount (s : State) (v : Word) : (s.setDsr v).freeCount = s.freeCount := rfl

/-! ## setA0 -/

@[simp] theorem State.setA0_bank0 (s : State) (v : Word) : (s.setA0 v).bank0 = s.bank0 := rfl
@[simp] theorem State.setA0_bank1 (s : State) (v : Word) : (s.setA0 v).bank1 = s.bank1 := rfl
@[simp] theorem State.setA0_high (s : State) (v : Word) : (s.setA0 v).high = s.high := rfl
@[simp] theorem State.setA0_pc (s : State) (v : Word) : (s.setA0 v).pc = s.pc := rfl
@[simp] theorem State.setA0_pending (s : State) (v : Word) : (s.setA0 v).pending = s.pending := rfl
@[simp] theorem State.setA0_sr (s : State) (v : Word) : (s.setA0 v).sr = s.sr := rfl
@[simp] theorem State.setA0_gbr (s : State) (v : Word) : (s.setA0 v).gbr = s.gbr := rfl
@[simp] theorem State.setA0_vbr (s : State) (v : Word) : (s.setA0 v).vbr = s.vbr := rfl
@[simp] theorem State.setA0_ssr (s : State) (v : Word) : (s.setA0 v).ssr = s.ssr := rfl
@[simp] theorem State.setA0_spc (s : State) (v : Word) : (s.setA0 v).spc = s.spc := rfl
@[simp] theorem State.setA0_sgr (s : State) (v : Word) : (s.setA0 v).sgr = s.sgr := rfl
@[simp] theorem State.setA0_dbr (s : State) (v : Word) : (s.setA0 v).dbr = s.dbr := rfl
@[simp] theorem State.setA0_mach (s : State) (v : Word) : (s.setA0 v).mach = s.mach := rfl
@[simp] theorem State.setA0_macl (s : State) (v : Word) : (s.setA0 v).macl = s.macl := rfl
@[simp] theorem State.setA0_pr (s : State) (v : Word) : (s.setA0 v).pr = s.pr := rfl
@[simp] theorem State.setA0_tra (s : State) (v : Word) : (s.setA0 v).tra = s.tra := rfl
@[simp] theorem State.setA0_expevt (s : State) (v : Word) : (s.setA0 v).expevt = s.expevt := rfl
@[simp] theorem State.setA0_intevt (s : State) (v : Word) : (s.setA0 v).intevt = s.intevt := rfl
@[simp] theorem State.setA0_pteh (s : State) (v : Word) : (s.setA0 v).pteh = s.pteh := rfl
@[simp] theorem State.setA0_ptel (s : State) (v : Word) : (s.setA0 v).ptel = s.ptel := rfl
@[simp] theorem State.setA0_mmucr (s : State) (v : Word) : (s.setA0 v).mmucr = s.mmucr := rfl
@[simp] theorem State.setA0_tlb (s : State) (v : Word) : (s.setA0 v).tlb = s.tlb := rfl
@[simp] theorem State.setA0_mod (s : State) (v : Word) : (s.setA0 v).mod = s.mod := rfl
@[simp] theorem State.setA0_rs (s : State) (v : Word) : (s.setA0 v).rs = s.rs := rfl
@[simp] theorem State.setA0_re (s : State) (v : Word) : (s.setA0 v).re = s.re := rfl
@[simp] theorem State.setA0_dsr (s : State) (v : Word) : (s.setA0 v).dsr = s.dsr := rfl
@[simp] theorem State.setA0_x0 (s : State) (v : Word) : (s.setA0 v).x0 = s.x0 := rfl
@[simp] theorem State.setA0_x1 (s : State) (v : Word) : (s.setA0 v).x1 = s.x1 := rfl
@[simp] theorem State.setA0_y0 (s : State) (v : Word) : (s.setA0 v).y0 = s.y0 := rfl
@[simp] theorem State.setA0_y1 (s : State) (v : Word) : (s.setA0 v).y1 = s.y1 := rfl
@[simp] theorem State.setA0_ldst (s : State) (v : Word) : (s.setA0 v).ldst = s.ldst := rfl
@[simp] theorem State.setA0_asleep (s : State) (v : Word) : (s.setA0 v).asleep = s.asleep := rfl
@[simp] theorem State.setA0_mem (s : State) (v : Word) : (s.setA0 v).mem = s.mem := rfl
@[simp] theorem State.setA0_dirtyCode (s : State) (v : Word) : (s.setA0 v).dirtyCode = s.dirtyCode := rfl
@[simp] theorem State.setA0_params (s : State) (v : Word) : (s.setA0 v).params = s.params := rfl
@[simp] theorem State.setA0_irq (s : State) (v : Word) : (s.setA0 v).irq = s.irq := rfl
@[simp] theorem State.setA0_host (s : State) (v : Word) : (s.setA0 v).host = s.host := rfl
@[simp] theorem State.setA0_freeCount (s : State) (v : Word) : (s.setA0 v).freeCount = s.freeCount := rfl

/-! ## setR -/

@[simp] theorem State.setR_pc (s : State) (i : Reg) (v : Word) : (s.setR i v).pc = s.pc := by
  unfold State.setR; split <;> (try split) <;> rfl
@[simp] theorem State.setR_pending (s : State) (i : Reg) (v : Word) : (s.setR i v).pending = s.pending := by
  unfold State.setR; split <;> (try split) <;> rfl
@[simp] theorem State.setR_sr (s : State) (i : Reg) (v : Word) : (s.setR i v).sr = s.sr := by
  unfold State.setR; split <;> (try split) <;> rfl
@[simp] theorem State.setR_gbr (s : State) (i : Reg) (v : Word) : (s.setR i v).gbr = s.gbr := by
  unfold State.setR; split <;> (try split) <;> rfl
@[simp] theorem State.setR_vbr (s : State) (i : Reg) (v : Word) : (s.setR i v).vbr = s.vbr := by
  unfold State.setR; split <;> (try split) <;> rfl
@[simp] theorem State.setR_ssr (s : State) (i : Reg) (v : Word) : (s.setR i v).ssr = s.ssr := by
  unfold State.setR; split <;> (try split) <;> rfl
@[simp] theorem State.setR_spc (s : State) (i : Reg) (v : Word) : (s.setR i v).spc = s.spc := by
  unfold State.setR; split <;> (try split) <;> rfl
@[simp] theorem State.setR_sgr (s : State) (i : Reg) (v : Word) : (s.setR i v).sgr = s.sgr := by
  unfold State.setR; split <;> (try split) <;> rfl
@[simp] theorem State.setR_dbr (s : State) (i : Reg) (v : Word) : (s.setR i v).dbr = s.dbr := by
  unfold State.setR; split <;> (try split) <;> rfl
@[simp] theorem State.setR_mach (s : State) (i : Reg) (v : Word) : (s.setR i v).mach = s.mach := by
  unfold State.setR; split <;> (try split) <;> rfl
@[simp] theorem State.setR_macl (s : State) (i : Reg) (v : Word) : (s.setR i v).macl = s.macl := by
  unfold State.setR; split <;> (try split) <;> rfl
@[simp] theorem State.setR_pr (s : State) (i : Reg) (v : Word) : (s.setR i v).pr = s.pr := by
  unfold State.setR; split <;> (try split) <;> rfl
@[simp] theorem State.setR_tra (s : State) (i : Reg) (v : Word) : (s.setR i v).tra = s.tra := by
  unfold State.setR; split <;> (try split) <;> rfl
@[simp] theorem State.setR_expevt (s : State) (i : Reg) (v : Word) : (s.setR i v).expevt = s.expevt := by
  unfold State.setR; split <;> (try split) <;> rfl
@[simp] theorem State.setR_intevt (s : State) (i : Reg) (v : Word) : (s.setR i v).intevt = s.intevt := by
  unfold State.setR; split <;> (try split) <;> rfl
@[simp] theorem State.setR_pteh (s : State) (i : Reg) (v : Word) : (s.setR i v).pteh = s.pteh := by
  unfold State.setR; split <;> (try split) <;> rfl
@[simp] theorem State.setR_ptel (s : State) (i : Reg) (v : Word) : (s.setR i v).ptel = s.ptel := by
  unfold State.setR; split <;> (try split) <;> rfl
@[simp] theorem State.setR_mmucr (s : State) (i : Reg) (v : Word) : (s.setR i v).mmucr = s.mmucr := by
  unfold State.setR; split <;> (try split) <;> rfl
@[simp] theorem State.setR_tlb (s : State) (i : Reg) (v : Word) : (s.setR i v).tlb = s.tlb := by
  unfold State.setR; split <;> (try split) <;> rfl
@[simp] theorem State.setR_mod (s : State) (i : Reg) (v : Word) : (s.setR i v).mod = s.mod := by
  unfold State.setR; split <;> (try split) <;> rfl
@[simp] theorem State.setR_rs (s : State) (i : Reg) (v : Word) : (s.setR i v).rs = s.rs := by
  unfold State.setR; split <;> (try split) <;> rfl
@[simp] theorem State.setR_re (s : State) (i : Reg) (v : Word) : (s.setR i v).re = s.re := by
  unfold State.setR; split <;> (try split) <;> rfl
@[simp] theorem State.setR_dsr (s : State) (i : Reg) (v : Word) : (s.setR i v).dsr = s.dsr := by
  unfold State.setR; split <;> (try split) <;> rfl
@[simp] theorem State.setR_a0 (s : State) (i : Reg) (v : Word) : (s.setR i v).a0 = s.a0 := by
  unfold State.setR; split <;> (try split) <;> rfl
@[simp] theorem State.setR_a0g (s : State) (i : Reg) (v : Word) : (s.setR i v).a0g = s.a0g := by
  unfold State.setR; split <;> (try split) <;> rfl
@[simp] theorem State.setR_x0 (s : State) (i : Reg) (v : Word) : (s.setR i v).x0 = s.x0 := by
  unfold State.setR; split <;> (try split) <;> rfl
@[simp] theorem State.setR_x1 (s : State) (i : Reg) (v : Word) : (s.setR i v).x1 = s.x1 := by
  unfold State.setR; split <;> (try split) <;> rfl
@[simp] theorem State.setR_y0 (s : State) (i : Reg) (v : Word) : (s.setR i v).y0 = s.y0 := by
  unfold State.setR; split <;> (try split) <;> rfl
@[simp] theorem State.setR_y1 (s : State) (i : Reg) (v : Word) : (s.setR i v).y1 = s.y1 := by
  unfold State.setR; split <;> (try split) <;> rfl
@[simp] theorem State.setR_ldst (s : State) (i : Reg) (v : Word) : (s.setR i v).ldst = s.ldst := by
  unfold State.setR; split <;> (try split) <;> rfl
@[simp] theorem State.setR_asleep (s : State) (i : Reg) (v : Word) : (s.setR i v).asleep = s.asleep := by
  unfold State.setR; split <;> (try split) <;> rfl
@[simp] theorem State.setR_mem (s : State) (i : Reg) (v : Word) : (s.setR i v).mem = s.mem := by
  unfold State.setR; split <;> (try split) <;> rfl
@[simp] theorem State.setR_dirtyCode (s : State) (i : Reg) (v : Word) : (s.setR i v).dirtyCode = s.dirtyCode := by
  unfold State.setR; split <;> (try split) <;> rfl
@[simp] theorem State.setR_params (s : State) (i : Reg) (v : Word) : (s.setR i v).params = s.params := by
  unfold State.setR; split <;> (try split) <;> rfl
@[simp] theorem State.setR_irq (s : State) (i : Reg) (v : Word) : (s.setR i v).irq = s.irq := by
  unfold State.setR; split <;> (try split) <;> rfl
@[simp] theorem State.setR_host (s : State) (i : Reg) (v : Word) : (s.setR i v).host = s.host := by
  unfold State.setR; split <;> (try split) <;> rfl
@[simp] theorem State.setR_freeCount (s : State) (i : Reg) (v : Word) : (s.setR i v).freeCount = s.freeCount := by
  unfold State.setR; split <;> (try split) <;> rfl

/-! ## setBankR -/

@[simp] theorem State.setBankR_high (s : State) (b : BankReg) (v : Word) : (s.setBankR b v).high = s.high := by
  unfold State.setBankR; split <;> rfl
@[simp] theorem State.setBankR_pc (s : State) (b : BankReg) (v : Word) : (s.setBankR b v).pc = s.pc := by
  unfold State.setBankR; split <;> rfl
@[simp] theorem State.setBankR_pending (s : State) (b : BankReg) (v : Word) : (s.setBankR b v).pending = s.pending := by
  unfold State.setBankR; split <;> rfl
@[simp] theorem State.setBankR_sr (s : State) (b : BankReg) (v : Word) : (s.setBankR b v).sr = s.sr := by
  unfold State.setBankR; split <;> rfl
@[simp] theorem State.setBankR_gbr (s : State) (b : BankReg) (v : Word) : (s.setBankR b v).gbr = s.gbr := by
  unfold State.setBankR; split <;> rfl
@[simp] theorem State.setBankR_vbr (s : State) (b : BankReg) (v : Word) : (s.setBankR b v).vbr = s.vbr := by
  unfold State.setBankR; split <;> rfl
@[simp] theorem State.setBankR_ssr (s : State) (b : BankReg) (v : Word) : (s.setBankR b v).ssr = s.ssr := by
  unfold State.setBankR; split <;> rfl
@[simp] theorem State.setBankR_spc (s : State) (b : BankReg) (v : Word) : (s.setBankR b v).spc = s.spc := by
  unfold State.setBankR; split <;> rfl
@[simp] theorem State.setBankR_sgr (s : State) (b : BankReg) (v : Word) : (s.setBankR b v).sgr = s.sgr := by
  unfold State.setBankR; split <;> rfl
@[simp] theorem State.setBankR_dbr (s : State) (b : BankReg) (v : Word) : (s.setBankR b v).dbr = s.dbr := by
  unfold State.setBankR; split <;> rfl
@[simp] theorem State.setBankR_mach (s : State) (b : BankReg) (v : Word) : (s.setBankR b v).mach = s.mach := by
  unfold State.setBankR; split <;> rfl
@[simp] theorem State.setBankR_macl (s : State) (b : BankReg) (v : Word) : (s.setBankR b v).macl = s.macl := by
  unfold State.setBankR; split <;> rfl
@[simp] theorem State.setBankR_pr (s : State) (b : BankReg) (v : Word) : (s.setBankR b v).pr = s.pr := by
  unfold State.setBankR; split <;> rfl
@[simp] theorem State.setBankR_tra (s : State) (b : BankReg) (v : Word) : (s.setBankR b v).tra = s.tra := by
  unfold State.setBankR; split <;> rfl
@[simp] theorem State.setBankR_expevt (s : State) (b : BankReg) (v : Word) : (s.setBankR b v).expevt = s.expevt := by
  unfold State.setBankR; split <;> rfl
@[simp] theorem State.setBankR_intevt (s : State) (b : BankReg) (v : Word) : (s.setBankR b v).intevt = s.intevt := by
  unfold State.setBankR; split <;> rfl
@[simp] theorem State.setBankR_pteh (s : State) (b : BankReg) (v : Word) : (s.setBankR b v).pteh = s.pteh := by
  unfold State.setBankR; split <;> rfl
@[simp] theorem State.setBankR_ptel (s : State) (b : BankReg) (v : Word) : (s.setBankR b v).ptel = s.ptel := by
  unfold State.setBankR; split <;> rfl
@[simp] theorem State.setBankR_mmucr (s : State) (b : BankReg) (v : Word) : (s.setBankR b v).mmucr = s.mmucr := by
  unfold State.setBankR; split <;> rfl
@[simp] theorem State.setBankR_tlb (s : State) (b : BankReg) (v : Word) : (s.setBankR b v).tlb = s.tlb := by
  unfold State.setBankR; split <;> rfl
@[simp] theorem State.setBankR_mod (s : State) (b : BankReg) (v : Word) : (s.setBankR b v).mod = s.mod := by
  unfold State.setBankR; split <;> rfl
@[simp] theorem State.setBankR_rs (s : State) (b : BankReg) (v : Word) : (s.setBankR b v).rs = s.rs := by
  unfold State.setBankR; split <;> rfl
@[simp] theorem State.setBankR_re (s : State) (b : BankReg) (v : Word) : (s.setBankR b v).re = s.re := by
  unfold State.setBankR; split <;> rfl
@[simp] theorem State.setBankR_dsr (s : State) (b : BankReg) (v : Word) : (s.setBankR b v).dsr = s.dsr := by
  unfold State.setBankR; split <;> rfl
@[simp] theorem State.setBankR_a0 (s : State) (b : BankReg) (v : Word) : (s.setBankR b v).a0 = s.a0 := by
  unfold State.setBankR; split <;> rfl
@[simp] theorem State.setBankR_a0g (s : State) (b : BankReg) (v : Word) : (s.setBankR b v).a0g = s.a0g := by
  unfold State.setBankR; split <;> rfl
@[simp] theorem State.setBankR_x0 (s : State) (b : BankReg) (v : Word) : (s.setBankR b v).x0 = s.x0 := by
  unfold State.setBankR; split <;> rfl
@[simp] theorem State.setBankR_x1 (s : State) (b : BankReg) (v : Word) : (s.setBankR b v).x1 = s.x1 := by
  unfold State.setBankR; split <;> rfl
@[simp] theorem State.setBankR_y0 (s : State) (b : BankReg) (v : Word) : (s.setBankR b v).y0 = s.y0 := by
  unfold State.setBankR; split <;> rfl
@[simp] theorem State.setBankR_y1 (s : State) (b : BankReg) (v : Word) : (s.setBankR b v).y1 = s.y1 := by
  unfold State.setBankR; split <;> rfl
@[simp] theorem State.setBankR_ldst (s : State) (b : BankReg) (v : Word) : (s.setBankR b v).ldst = s.ldst := by
  unfold State.setBankR; split <;> rfl
@[simp] theorem State.setBankR_asleep (s : State) (b : BankReg) (v : Word) : (s.setBankR b v).asleep = s.asleep := by
  unfold State.setBankR; split <;> rfl
@[simp] theorem State.setBankR_mem (s : State) (b : BankReg) (v : Word) : (s.setBankR b v).mem = s.mem := by
  unfold State.setBankR; split <;> rfl
@[simp] theorem State.setBankR_dirtyCode (s : State) (b : BankReg) (v : Word) : (s.setBankR b v).dirtyCode = s.dirtyCode := by
  unfold State.setBankR; split <;> rfl
@[simp] theorem State.setBankR_params (s : State) (b : BankReg) (v : Word) : (s.setBankR b v).params = s.params := by
  unfold State.setBankR; split <;> rfl
@[simp] theorem State.setBankR_irq (s : State) (b : BankReg) (v : Word) : (s.setBankR b v).irq = s.irq := by
  unfold State.setBankR; split <;> rfl
@[simp] theorem State.setBankR_host (s : State) (b : BankReg) (v : Word) : (s.setBankR b v).host = s.host := by
  unfold State.setBankR; split <;> rfl
@[simp] theorem State.setBankR_freeCount (s : State) (b : BankReg) (v : Word) : (s.setBankR b v).freeCount = s.freeCount := by
  unfold State.setBankR; split <;> rfl

/-! ## bump -/

@[simp] theorem State.bump_pc (s : State) (i : Reg) (v : Word) : (s.bump i v).pc = s.pc := State.setR_pc s i _
@[simp] theorem State.bump_pending (s : State) (i : Reg) (v : Word) : (s.bump i v).pending = s.pending := State.setR_pending s i _
@[simp] theorem State.bump_sr (s : State) (i : Reg) (v : Word) : (s.bump i v).sr = s.sr := State.setR_sr s i _
@[simp] theorem State.bump_gbr (s : State) (i : Reg) (v : Word) : (s.bump i v).gbr = s.gbr := State.setR_gbr s i _
@[simp] theorem State.bump_vbr (s : State) (i : Reg) (v : Word) : (s.bump i v).vbr = s.vbr := State.setR_vbr s i _
@[simp] theorem State.bump_ssr (s : State) (i : Reg) (v : Word) : (s.bump i v).ssr = s.ssr := State.setR_ssr s i _
@[simp] theorem State.bump_spc (s : State) (i : Reg) (v : Word) : (s.bump i v).spc = s.spc := State.setR_spc s i _
@[simp] theorem State.bump_sgr (s : State) (i : Reg) (v : Word) : (s.bump i v).sgr = s.sgr := State.setR_sgr s i _
@[simp] theorem State.bump_dbr (s : State) (i : Reg) (v : Word) : (s.bump i v).dbr = s.dbr := State.setR_dbr s i _
@[simp] theorem State.bump_mach (s : State) (i : Reg) (v : Word) : (s.bump i v).mach = s.mach := State.setR_mach s i _
@[simp] theorem State.bump_macl (s : State) (i : Reg) (v : Word) : (s.bump i v).macl = s.macl := State.setR_macl s i _
@[simp] theorem State.bump_pr (s : State) (i : Reg) (v : Word) : (s.bump i v).pr = s.pr := State.setR_pr s i _
@[simp] theorem State.bump_tra (s : State) (i : Reg) (v : Word) : (s.bump i v).tra = s.tra := State.setR_tra s i _
@[simp] theorem State.bump_expevt (s : State) (i : Reg) (v : Word) : (s.bump i v).expevt = s.expevt := State.setR_expevt s i _
@[simp] theorem State.bump_intevt (s : State) (i : Reg) (v : Word) : (s.bump i v).intevt = s.intevt := State.setR_intevt s i _
@[simp] theorem State.bump_pteh (s : State) (i : Reg) (v : Word) : (s.bump i v).pteh = s.pteh := State.setR_pteh s i _
@[simp] theorem State.bump_ptel (s : State) (i : Reg) (v : Word) : (s.bump i v).ptel = s.ptel := State.setR_ptel s i _
@[simp] theorem State.bump_mmucr (s : State) (i : Reg) (v : Word) : (s.bump i v).mmucr = s.mmucr := State.setR_mmucr s i _
@[simp] theorem State.bump_tlb (s : State) (i : Reg) (v : Word) : (s.bump i v).tlb = s.tlb := State.setR_tlb s i _
@[simp] theorem State.bump_mod (s : State) (i : Reg) (v : Word) : (s.bump i v).mod = s.mod := State.setR_mod s i _
@[simp] theorem State.bump_rs (s : State) (i : Reg) (v : Word) : (s.bump i v).rs = s.rs := State.setR_rs s i _
@[simp] theorem State.bump_re (s : State) (i : Reg) (v : Word) : (s.bump i v).re = s.re := State.setR_re s i _
@[simp] theorem State.bump_dsr (s : State) (i : Reg) (v : Word) : (s.bump i v).dsr = s.dsr := State.setR_dsr s i _
@[simp] theorem State.bump_a0 (s : State) (i : Reg) (v : Word) : (s.bump i v).a0 = s.a0 := State.setR_a0 s i _
@[simp] theorem State.bump_a0g (s : State) (i : Reg) (v : Word) : (s.bump i v).a0g = s.a0g := State.setR_a0g s i _
@[simp] theorem State.bump_x0 (s : State) (i : Reg) (v : Word) : (s.bump i v).x0 = s.x0 := State.setR_x0 s i _
@[simp] theorem State.bump_x1 (s : State) (i : Reg) (v : Word) : (s.bump i v).x1 = s.x1 := State.setR_x1 s i _
@[simp] theorem State.bump_y0 (s : State) (i : Reg) (v : Word) : (s.bump i v).y0 = s.y0 := State.setR_y0 s i _
@[simp] theorem State.bump_y1 (s : State) (i : Reg) (v : Word) : (s.bump i v).y1 = s.y1 := State.setR_y1 s i _
@[simp] theorem State.bump_ldst (s : State) (i : Reg) (v : Word) : (s.bump i v).ldst = s.ldst := State.setR_ldst s i _
@[simp] theorem State.bump_asleep (s : State) (i : Reg) (v : Word) : (s.bump i v).asleep = s.asleep := State.setR_asleep s i _
@[simp] theorem State.bump_mem (s : State) (i : Reg) (v : Word) : (s.bump i v).mem = s.mem := State.setR_mem s i _
@[simp] theorem State.bump_dirtyCode (s : State) (i : Reg) (v : Word) : (s.bump i v).dirtyCode = s.dirtyCode := State.setR_dirtyCode s i _
@[simp] theorem State.bump_params (s : State) (i : Reg) (v : Word) : (s.bump i v).params = s.params := State.setR_params s i _
@[simp] theorem State.bump_irq (s : State) (i : Reg) (v : Word) : (s.bump i v).irq = s.irq := State.setR_irq s i _
@[simp] theorem State.bump_host (s : State) (i : Reg) (v : Word) : (s.bump i v).host = s.host := State.setR_host s i _
@[simp] theorem State.bump_freeCount (s : State) (i : Reg) (v : Word) : (s.bump i v).freeCount = s.freeCount := State.setR_freeCount s i _

/-! ## macLong -/

@[simp] theorem State.macLong_bank0 (s : State) (p : Int) : (s.macLong p).bank0 = s.bank0 := by
  unfold State.macLong; split <;> rfl
@[simp] theorem State.macLong_bank1 (s : State) (p : Int) : (s.macLong p).bank1 = s.bank1 := by
  unfold State.macLong; split <;> rfl
@[simp] theorem State.macLong_high (s : State) (p : Int) : (s.macLong p).high = s.high := by
  unfold State.macLong; split <;> rfl
@[simp] theorem State.macLong_pc (s : State) (p : Int) : (s.macLong p).pc = s.pc := by
  unfold State.macLong; split <;> rfl
@[simp] theorem State.macLong_pending (s : State) (p : Int) : (s.macLong p).pending = s.pending := by
  unfold State.macLong; split <;> rfl
@[simp] theorem State.macLong_sr (s : State) (p : Int) : (s.macLong p).sr = s.sr := by
  unfold State.macLong; split <;> rfl
@[simp] theorem State.macLong_gbr (s : State) (p : Int) : (s.macLong p).gbr = s.gbr := by
  unfold State.macLong; split <;> rfl
@[simp] theorem State.macLong_vbr (s : State) (p : Int) : (s.macLong p).vbr = s.vbr := by
  unfold State.macLong; split <;> rfl
@[simp] theorem State.macLong_ssr (s : State) (p : Int) : (s.macLong p).ssr = s.ssr := by
  unfold State.macLong; split <;> rfl
@[simp] theorem State.macLong_spc (s : State) (p : Int) : (s.macLong p).spc = s.spc := by
  unfold State.macLong; split <;> rfl
@[simp] theorem State.macLong_sgr (s : State) (p : Int) : (s.macLong p).sgr = s.sgr := by
  unfold State.macLong; split <;> rfl
@[simp] theorem State.macLong_dbr (s : State) (p : Int) : (s.macLong p).dbr = s.dbr := by
  unfold State.macLong; split <;> rfl
@[simp] theorem State.macLong_pr (s : State) (p : Int) : (s.macLong p).pr = s.pr := by
  unfold State.macLong; split <;> rfl
@[simp] theorem State.macLong_tra (s : State) (p : Int) : (s.macLong p).tra = s.tra := by
  unfold State.macLong; split <;> rfl
@[simp] theorem State.macLong_expevt (s : State) (p : Int) : (s.macLong p).expevt = s.expevt := by
  unfold State.macLong; split <;> rfl
@[simp] theorem State.macLong_intevt (s : State) (p : Int) : (s.macLong p).intevt = s.intevt := by
  unfold State.macLong; split <;> rfl
@[simp] theorem State.macLong_pteh (s : State) (p : Int) : (s.macLong p).pteh = s.pteh := by
  unfold State.macLong; split <;> rfl
@[simp] theorem State.macLong_ptel (s : State) (p : Int) : (s.macLong p).ptel = s.ptel := by
  unfold State.macLong; split <;> rfl
@[simp] theorem State.macLong_mmucr (s : State) (p : Int) : (s.macLong p).mmucr = s.mmucr := by
  unfold State.macLong; split <;> rfl
@[simp] theorem State.macLong_tlb (s : State) (p : Int) : (s.macLong p).tlb = s.tlb := by
  unfold State.macLong; split <;> rfl
@[simp] theorem State.macLong_mod (s : State) (p : Int) : (s.macLong p).mod = s.mod := by
  unfold State.macLong; split <;> rfl
@[simp] theorem State.macLong_rs (s : State) (p : Int) : (s.macLong p).rs = s.rs := by
  unfold State.macLong; split <;> rfl
@[simp] theorem State.macLong_re (s : State) (p : Int) : (s.macLong p).re = s.re := by
  unfold State.macLong; split <;> rfl
@[simp] theorem State.macLong_dsr (s : State) (p : Int) : (s.macLong p).dsr = s.dsr := by
  unfold State.macLong; split <;> rfl
@[simp] theorem State.macLong_a0 (s : State) (p : Int) : (s.macLong p).a0 = s.a0 := by
  unfold State.macLong; split <;> rfl
@[simp] theorem State.macLong_a0g (s : State) (p : Int) : (s.macLong p).a0g = s.a0g := by
  unfold State.macLong; split <;> rfl
@[simp] theorem State.macLong_x0 (s : State) (p : Int) : (s.macLong p).x0 = s.x0 := by
  unfold State.macLong; split <;> rfl
@[simp] theorem State.macLong_x1 (s : State) (p : Int) : (s.macLong p).x1 = s.x1 := by
  unfold State.macLong; split <;> rfl
@[simp] theorem State.macLong_y0 (s : State) (p : Int) : (s.macLong p).y0 = s.y0 := by
  unfold State.macLong; split <;> rfl
@[simp] theorem State.macLong_y1 (s : State) (p : Int) : (s.macLong p).y1 = s.y1 := by
  unfold State.macLong; split <;> rfl
@[simp] theorem State.macLong_ldst (s : State) (p : Int) : (s.macLong p).ldst = s.ldst := by
  unfold State.macLong; split <;> rfl
@[simp] theorem State.macLong_asleep (s : State) (p : Int) : (s.macLong p).asleep = s.asleep := by
  unfold State.macLong; split <;> rfl
@[simp] theorem State.macLong_mem (s : State) (p : Int) : (s.macLong p).mem = s.mem := by
  unfold State.macLong; split <;> rfl
@[simp] theorem State.macLong_dirtyCode (s : State) (p : Int) : (s.macLong p).dirtyCode = s.dirtyCode := by
  unfold State.macLong; split <;> rfl
@[simp] theorem State.macLong_params (s : State) (p : Int) : (s.macLong p).params = s.params := by
  unfold State.macLong; split <;> rfl
@[simp] theorem State.macLong_irq (s : State) (p : Int) : (s.macLong p).irq = s.irq := by
  unfold State.macLong; split <;> rfl
@[simp] theorem State.macLong_host (s : State) (p : Int) : (s.macLong p).host = s.host := by
  unfold State.macLong; split <;> rfl
@[simp] theorem State.macLong_freeCount (s : State) (p : Int) : (s.macLong p).freeCount = s.freeCount := by
  unfold State.macLong; split <;> rfl

/-! ## macWord -/

@[simp] theorem State.macWord_bank0 (s : State) (p : Int) : (s.macWord p).bank0 = s.bank0 := by
  unfold State.macWord; split <;> (try split) <;> rfl
@[simp] theorem State.macWord_bank1 (s : State) (p : Int) : (s.macWord p).bank1 = s.bank1 := by
  unfold State.macWord; split <;> (try split) <;> rfl
@[simp] theorem State.macWord_high (s : State) (p : Int) : (s.macWord p).high = s.high := by
  unfold State.macWord; split <;> (try split) <;> rfl
@[simp] theorem State.macWord_pc (s : State) (p : Int) : (s.macWord p).pc = s.pc := by
  unfold State.macWord; split <;> (try split) <;> rfl
@[simp] theorem State.macWord_pending (s : State) (p : Int) : (s.macWord p).pending = s.pending := by
  unfold State.macWord; split <;> (try split) <;> rfl
@[simp] theorem State.macWord_sr (s : State) (p : Int) : (s.macWord p).sr = s.sr := by
  unfold State.macWord; split <;> (try split) <;> rfl
@[simp] theorem State.macWord_gbr (s : State) (p : Int) : (s.macWord p).gbr = s.gbr := by
  unfold State.macWord; split <;> (try split) <;> rfl
@[simp] theorem State.macWord_vbr (s : State) (p : Int) : (s.macWord p).vbr = s.vbr := by
  unfold State.macWord; split <;> (try split) <;> rfl
@[simp] theorem State.macWord_ssr (s : State) (p : Int) : (s.macWord p).ssr = s.ssr := by
  unfold State.macWord; split <;> (try split) <;> rfl
@[simp] theorem State.macWord_spc (s : State) (p : Int) : (s.macWord p).spc = s.spc := by
  unfold State.macWord; split <;> (try split) <;> rfl
@[simp] theorem State.macWord_sgr (s : State) (p : Int) : (s.macWord p).sgr = s.sgr := by
  unfold State.macWord; split <;> (try split) <;> rfl
@[simp] theorem State.macWord_dbr (s : State) (p : Int) : (s.macWord p).dbr = s.dbr := by
  unfold State.macWord; split <;> (try split) <;> rfl
@[simp] theorem State.macWord_pr (s : State) (p : Int) : (s.macWord p).pr = s.pr := by
  unfold State.macWord; split <;> (try split) <;> rfl
@[simp] theorem State.macWord_tra (s : State) (p : Int) : (s.macWord p).tra = s.tra := by
  unfold State.macWord; split <;> (try split) <;> rfl
@[simp] theorem State.macWord_expevt (s : State) (p : Int) : (s.macWord p).expevt = s.expevt := by
  unfold State.macWord; split <;> (try split) <;> rfl
@[simp] theorem State.macWord_intevt (s : State) (p : Int) : (s.macWord p).intevt = s.intevt := by
  unfold State.macWord; split <;> (try split) <;> rfl
@[simp] theorem State.macWord_pteh (s : State) (p : Int) : (s.macWord p).pteh = s.pteh := by
  unfold State.macWord; split <;> (try split) <;> rfl
@[simp] theorem State.macWord_ptel (s : State) (p : Int) : (s.macWord p).ptel = s.ptel := by
  unfold State.macWord; split <;> (try split) <;> rfl
@[simp] theorem State.macWord_mmucr (s : State) (p : Int) : (s.macWord p).mmucr = s.mmucr := by
  unfold State.macWord; split <;> (try split) <;> rfl
@[simp] theorem State.macWord_tlb (s : State) (p : Int) : (s.macWord p).tlb = s.tlb := by
  unfold State.macWord; split <;> (try split) <;> rfl
@[simp] theorem State.macWord_mod (s : State) (p : Int) : (s.macWord p).mod = s.mod := by
  unfold State.macWord; split <;> (try split) <;> rfl
@[simp] theorem State.macWord_rs (s : State) (p : Int) : (s.macWord p).rs = s.rs := by
  unfold State.macWord; split <;> (try split) <;> rfl
@[simp] theorem State.macWord_re (s : State) (p : Int) : (s.macWord p).re = s.re := by
  unfold State.macWord; split <;> (try split) <;> rfl
@[simp] theorem State.macWord_dsr (s : State) (p : Int) : (s.macWord p).dsr = s.dsr := by
  unfold State.macWord; split <;> (try split) <;> rfl
@[simp] theorem State.macWord_a0 (s : State) (p : Int) : (s.macWord p).a0 = s.a0 := by
  unfold State.macWord; split <;> (try split) <;> rfl
@[simp] theorem State.macWord_a0g (s : State) (p : Int) : (s.macWord p).a0g = s.a0g := by
  unfold State.macWord; split <;> (try split) <;> rfl
@[simp] theorem State.macWord_x0 (s : State) (p : Int) : (s.macWord p).x0 = s.x0 := by
  unfold State.macWord; split <;> (try split) <;> rfl
@[simp] theorem State.macWord_x1 (s : State) (p : Int) : (s.macWord p).x1 = s.x1 := by
  unfold State.macWord; split <;> (try split) <;> rfl
@[simp] theorem State.macWord_y0 (s : State) (p : Int) : (s.macWord p).y0 = s.y0 := by
  unfold State.macWord; split <;> (try split) <;> rfl
@[simp] theorem State.macWord_y1 (s : State) (p : Int) : (s.macWord p).y1 = s.y1 := by
  unfold State.macWord; split <;> (try split) <;> rfl
@[simp] theorem State.macWord_ldst (s : State) (p : Int) : (s.macWord p).ldst = s.ldst := by
  unfold State.macWord; split <;> (try split) <;> rfl
@[simp] theorem State.macWord_asleep (s : State) (p : Int) : (s.macWord p).asleep = s.asleep := by
  unfold State.macWord; split <;> (try split) <;> rfl
@[simp] theorem State.macWord_mem (s : State) (p : Int) : (s.macWord p).mem = s.mem := by
  unfold State.macWord; split <;> (try split) <;> rfl
@[simp] theorem State.macWord_dirtyCode (s : State) (p : Int) : (s.macWord p).dirtyCode = s.dirtyCode := by
  unfold State.macWord; split <;> (try split) <;> rfl
@[simp] theorem State.macWord_params (s : State) (p : Int) : (s.macWord p).params = s.params := by
  unfold State.macWord; split <;> (try split) <;> rfl
@[simp] theorem State.macWord_irq (s : State) (p : Int) : (s.macWord p).irq = s.irq := by
  unfold State.macWord; split <;> (try split) <;> rfl
@[simp] theorem State.macWord_host (s : State) (p : Int) : (s.macWord p).host = s.host := by
  unfold State.macWord; split <;> (try split) <;> rfl

/-! ## advance -/

@[simp] theorem State.advance_bank0 (s : State) : (s.advance).bank0 = s.bank0 := by
  unfold State.advance; split <;> rfl
@[simp] theorem State.advance_bank1 (s : State) : (s.advance).bank1 = s.bank1 := by
  unfold State.advance; split <;> rfl
@[simp] theorem State.advance_high (s : State) : (s.advance).high = s.high := by
  unfold State.advance; split <;> rfl
@[simp] theorem State.advance_sr (s : State) : (s.advance).sr = s.sr := by
  unfold State.advance; split <;> rfl
@[simp] theorem State.advance_gbr (s : State) : (s.advance).gbr = s.gbr := by
  unfold State.advance; split <;> rfl
@[simp] theorem State.advance_vbr (s : State) : (s.advance).vbr = s.vbr := by
  unfold State.advance; split <;> rfl
@[simp] theorem State.advance_ssr (s : State) : (s.advance).ssr = s.ssr := by
  unfold State.advance; split <;> rfl
@[simp] theorem State.advance_spc (s : State) : (s.advance).spc = s.spc := by
  unfold State.advance; split <;> rfl
@[simp] theorem State.advance_sgr (s : State) : (s.advance).sgr = s.sgr := by
  unfold State.advance; split <;> rfl
@[simp] theorem State.advance_dbr (s : State) : (s.advance).dbr = s.dbr := by
  unfold State.advance; split <;> rfl
@[simp] theorem State.advance_mach (s : State) : (s.advance).mach = s.mach := by
  unfold State.advance; split <;> rfl
@[simp] theorem State.advance_macl (s : State) : (s.advance).macl = s.macl := by
  unfold State.advance; split <;> rfl
@[simp] theorem State.advance_pr (s : State) : (s.advance).pr = s.pr := by
  unfold State.advance; split <;> rfl
@[simp] theorem State.advance_tra (s : State) : (s.advance).tra = s.tra := by
  unfold State.advance; split <;> rfl
@[simp] theorem State.advance_expevt (s : State) : (s.advance).expevt = s.expevt := by
  unfold State.advance; split <;> rfl
@[simp] theorem State.advance_intevt (s : State) : (s.advance).intevt = s.intevt := by
  unfold State.advance; split <;> rfl
@[simp] theorem State.advance_pteh (s : State) : (s.advance).pteh = s.pteh := by
  unfold State.advance; split <;> rfl
@[simp] theorem State.advance_ptel (s : State) : (s.advance).ptel = s.ptel := by
  unfold State.advance; split <;> rfl
@[simp] theorem State.advance_mmucr (s : State) : (s.advance).mmucr = s.mmucr := by
  unfold State.advance; split <;> rfl
@[simp] theorem State.advance_tlb (s : State) : (s.advance).tlb = s.tlb := by
  unfold State.advance; split <;> rfl
@[simp] theorem State.advance_mod (s : State) : (s.advance).mod = s.mod := by
  unfold State.advance; split <;> rfl
@[simp] theorem State.advance_rs (s : State) : (s.advance).rs = s.rs := by
  unfold State.advance; split <;> rfl
@[simp] theorem State.advance_re (s : State) : (s.advance).re = s.re := by
  unfold State.advance; split <;> rfl
@[simp] theorem State.advance_dsr (s : State) : (s.advance).dsr = s.dsr := by
  unfold State.advance; split <;> rfl
@[simp] theorem State.advance_a0 (s : State) : (s.advance).a0 = s.a0 := by
  unfold State.advance; split <;> rfl
@[simp] theorem State.advance_a0g (s : State) : (s.advance).a0g = s.a0g := by
  unfold State.advance; split <;> rfl
@[simp] theorem State.advance_x0 (s : State) : (s.advance).x0 = s.x0 := by
  unfold State.advance; split <;> rfl
@[simp] theorem State.advance_x1 (s : State) : (s.advance).x1 = s.x1 := by
  unfold State.advance; split <;> rfl
@[simp] theorem State.advance_y0 (s : State) : (s.advance).y0 = s.y0 := by
  unfold State.advance; split <;> rfl
@[simp] theorem State.advance_y1 (s : State) : (s.advance).y1 = s.y1 := by
  unfold State.advance; split <;> rfl
@[simp] theorem State.advance_ldst (s : State) : (s.advance).ldst = s.ldst := by
  unfold State.advance; split <;> rfl
@[simp] theorem State.advance_asleep (s : State) : (s.advance).asleep = s.asleep := by
  unfold State.advance; split <;> rfl
@[simp] theorem State.advance_mem (s : State) : (s.advance).mem = s.mem := by
  unfold State.advance; split <;> rfl
@[simp] theorem State.advance_dirtyCode (s : State) : (s.advance).dirtyCode = s.dirtyCode := by
  unfold State.advance; split <;> rfl
@[simp] theorem State.advance_params (s : State) : (s.advance).params = s.params := by
  unfold State.advance; split <;> rfl
@[simp] theorem State.advance_irq (s : State) : (s.advance).irq = s.irq := by
  unfold State.advance; split <;> rfl
@[simp] theorem State.advance_host (s : State) : (s.advance).host = s.host := by
  unfold State.advance; split <;> rfl
@[simp] theorem State.advance_freeCount (s : State) : (s.advance).freeCount = s.freeCount := by
  unfold State.advance; split <;> rfl

end Sys2Proof.Machine
end

