-- ==== Sys2Proof/Laws/Registers.lean ====
section
/-! SUPPORT. Laws of the general registers, the banks and the bits of SR. -/

namespace Sys2Proof.Machine

/-! ## Bits of SR -/

theorem getLsbD_withBit (w : Word) (i j : Nat) (b : Bool) (hi : i < 32) :
    (withBit w i b).getLsbD j = if i = j then b else w.getLsbD j := by
  unfold withBit
  by_cases hj : i = j
  · subst hj; cases b <;> simp [hi]
  · cases b
    · simp [hj]
      intro h
      exact BitVec.lt_of_getLsbD h
    · simp [hj]

@[simp] theorem State.setT_tBit (s : State) (b : Bool) : (s.setT b).tBit = b := by
  show (withBit s.sr _ b).getLsbD _ = b
  rw [getLsbD_withBit _ _ _ _ (by omega), if_pos rfl]

@[simp] theorem State.setS_sBit (s : State) (b : Bool) : (s.setS b).sBit = b := by
  show (withBit s.sr _ b).getLsbD _ = b
  rw [getLsbD_withBit _ _ _ _ (by omega), if_pos rfl]

@[simp] theorem State.setQ_qBit (s : State) (b : Bool) : (s.setQ b).qBit = b := by
  show (withBit s.sr _ b).getLsbD _ = b
  rw [getLsbD_withBit _ _ _ _ (by omega), if_pos rfl]

@[simp] theorem State.setM_mBit (s : State) (b : Bool) : (s.setM b).mBit = b := by
  show (withBit s.sr _ b).getLsbD _ = b
  rw [getLsbD_withBit _ _ _ _ (by omega), if_pos rfl]

/-- The current bank depends on SR alone. -/
theorem bankSel_congr {s t : State} (h : t.sr = s.sr) : t.bankSel = s.bankSel := by
  simp [State.bankSel, State.md, State.rb, h]

/-- Writing a bit of SR below RB leaves the current bank. -/
theorem bankSel_withBit (s t : State) (i : Nat) (b : Bool) (hi : i < 29) (h : t.sr = withBit s.sr i b) :
    t.bankSel = s.bankSel := by
  simp only [State.bankSel, State.md, State.rb, h]
  rw [getLsbD_withBit _ _ _ _ (by omega), getLsbD_withBit _ _ _ _ (by omega)]
  simp [show i ≠ 30 by omega, show i ≠ 29 by omega]

@[simp] theorem State.setT_bankSel (s : State) (b : Bool) : (s.setT b).bankSel = s.bankSel :=
  bankSel_withBit s _ 0 b (by omega) rfl

@[simp] theorem State.setS_bankSel (s : State) (b : Bool) : (s.setS b).bankSel = s.bankSel :=
  bankSel_withBit s _ 1 b (by omega) rfl

@[simp] theorem State.setQ_bankSel (s : State) (b : Bool) : (s.setQ b).bankSel = s.bankSel :=
  bankSel_withBit s _ 8 b (by omega) rfl

@[simp] theorem State.setM_bankSel (s : State) (b : Bool) : (s.setM b).bankSel = s.bankSel :=
  bankSel_withBit s _ 9 b (by omega) rfl

/-- After entry BANK1 is current (10_state.md R21). -/
@[simp] theorem State.enter_bankSel (s : State) (a b : Word) : (s.enter a b).bankSel = true := by
  simp [State.bankSel, State.md, State.rb, State.enter, srOnEntry]

/-! ## General registers -/

/-- The general registers depend on the three arrays and the current bank. -/
theorem r_congr {s t : State} (h0 : t.bank0 = s.bank0) (h1 : t.bank1 = s.bank1) (h2 : t.high = s.high)
    (hb : t.bankSel = s.bankSel) (i : Reg) : t.r i = s.r i := by
  simp [State.r, h0, h1, h2, hb]

/-- So do the registers of the other bank. -/
theorem bankR_congr {s t : State} (h0 : t.bank0 = s.bank0) (h1 : t.bank1 = s.bank1) (hb : t.bankSel = s.bankSel)
    (b : BankReg) : t.bankR b = s.bankR b := by
  simp [State.bankR, h0, h1, hb]

/-- Two register numbers of the same half and the same place are the same. -/
theorem reg_eq_of_index {i j : Reg} (hm : i.msb = j.msb) (hx : regIndex i = regIndex j) : i = j := by
  revert hm hx; revert i j; decide

@[simp] theorem State.setR_bankSel (s : State) (i : Reg) (v : Word) : (s.setR i v).bankSel = s.bankSel :=
  bankSel_congr (by simp)

@[simp] theorem State.setBankR_bankSel (s : State) (b : BankReg) (v : Word) : (s.setBankR b v).bankSel = s.bankSel :=
  bankSel_congr (by simp)

/-- Reading the register just written gives the value written (10_state.md R20: no register is hardwired). -/
@[simp] theorem State.setR_r_same (s : State) (i : Reg) (v : Word) : (s.setR i v).r i = v := by
  unfold State.r
  rw [State.setR_bankSel]
  unfold State.setR
  split
  · simp
  · split <;> simp

/-- Writing a register leaves the others. -/
theorem State.setR_r_ne (s : State) {i j : Reg} (v : Word) (h : j ≠ i) : (s.setR i v).r j = s.r j := by
  have key : i.msb = j.msb → regIndex i ≠ regIndex j := fun hm hx => h (reg_eq_of_index hm hx).symm
  unfold State.r
  rw [State.setR_bankSel]
  unfold State.setR
  cases hi : i.msb <;> cases hj : j.msb <;> cases hb : s.bankSel <;> simp
  all_goals
    rw [Vector.getElem_set_ne]
    intro hx
    exact key (by rw [hi, hj]) (Fin.ext hx)

/-- The registers after a write, all at once. -/
theorem State.setR_r (s : State) (i j : Reg) (v : Word) : (s.setR i v).r j = if j = i then v else s.r j := by
  split
  · subst_vars; simp
  · exact State.setR_r_ne s v (by assumption)

/-- Writing a register of the current bank leaves the other bank (10_state.md R21). -/
@[simp] theorem State.setR_bankR (s : State) (i : Reg) (v : Word) (b : BankReg) : (s.setR i v).bankR b = s.bankR b := by
  unfold State.bankR
  rw [State.setR_bankSel]
  unfold State.setR
  cases hi : i.msb <;> cases hb : s.bankSel <;> simp

/-- Reading the register of the other bank just written gives the value written. -/
@[simp] theorem State.setBankR_bankR_same (s : State) (b : BankReg) (v : Word) : (s.setBankR b v).bankR b = v := by
  unfold State.bankR
  rw [State.setBankR_bankSel]
  unfold State.setBankR
  split <;> simp

/-- Writing a register of the other bank leaves the rest of that bank. -/
theorem State.setBankR_bankR_ne (s : State) {b c : BankReg} (v : Word) (h : c ≠ b) :
    (s.setBankR b v).bankR c = s.bankR c := by
  have key : b.toFin ≠ c.toFin := fun hx => h (BitVec.eq_of_toFin_eq hx.symm)
  unfold State.bankR
  rw [State.setBankR_bankSel]
  unfold State.setBankR
  cases hb : s.bankSel <;> simp
  all_goals
    rw [Vector.getElem_set_ne]
    intro hx
    exact key (Fin.ext hx)

/-- Writing a register of the other bank leaves the current registers (10_state.md R21). -/
@[simp] theorem State.setBankR_r (s : State) (b : BankReg) (v : Word) (i : Reg) : (s.setBankR b v).r i = s.r i := by
  unfold State.r
  rw [State.setBankR_bankSel]
  unfold State.setBankR
  cases hi : i.msb <;> cases hb : s.bankSel <;> simp

@[simp] theorem State.setT_r (s : State) (b : Bool) (i : Reg) : (s.setT b).r i = s.r i :=
  r_congr (s := s) (t := s.setT b) rfl rfl rfl (State.setT_bankSel s b) i

@[simp] theorem State.setT_bankR (s : State) (b : Bool) (c : BankReg) : (s.setT b).bankR c = s.bankR c :=
  bankR_congr (s := s) (t := s.setT b) rfl rfl (State.setT_bankSel s b) c

@[simp] theorem State.advance_r (s : State) (i : Reg) : s.advance.r i = s.r i :=
  r_congr (by simp) (by simp) (by simp) (bankSel_congr (by simp)) i

@[simp] theorem State.advance_bankR (s : State) (c : BankReg) : s.advance.bankR c = s.bankR c :=
  bankR_congr (by simp) (by simp) (bankSel_congr (by simp)) c

/-! ## The end of an instruction -/

/-- Where the pc goes (10_state.md R24, 42_branch.md R200). -/
theorem State.advance_pc (s : State) :
    s.advance.pc = match s.pending with | none => s.pc + 2 | some p => p.target := by
  unfold State.advance; cases s.pending <;> rfl

@[simp] theorem State.advance_pending (s : State) : s.advance.pending = none := by
  unfold State.advance
  split
  · assumption
  · rfl

/-- Off a delay slot the pc goes to pc + 2. -/
theorem State.advance_of_none {s : State} (h : s.pending = none) : s.advance = { s with pc := s.pc + 2 } := by
  simp [State.advance, h]

/-- From a delay slot the pc goes to the target. -/
theorem State.advance_of_some {s : State} {p : Slot} (h : s.pending = some p) :
    s.advance = { s with pc := p.target, pending := none } := by
  simp [State.advance, h]

end Sys2Proof.Machine
end

