-- ==== Sys2Proof/Laws/Memory.lean ====
section
/-! SUPPORT. Laws of the ordered lists: read after write, the canonical form kept; and of memory through them. -/

namespace Sys2Proof.Machine

/-! ## Ordered lists by number -/

section
variable {α : Type}

/-- Reading after a write (read after write, and a write elsewhere). -/
theorem assocGet_assocSet (l : List (Nat × α)) (k j : Nat) (v : α) :
    assocGet (assocSet l k v) j = if k = j then some v else assocGet l j := by
  induction l with
  | nil => simp [assocSet, assocGet]
  | cons c cs ih =>
    unfold assocSet
    by_cases h1 : k < c.1
    · rw [if_pos h1]; simp [assocGet]
    · rw [if_neg h1]
      by_cases h2 : k = c.1
      · rw [if_pos h2]
        by_cases h3 : k = j
        · simp [assocGet, h3]
        · simp [assocGet, h3, ← h2]
      · rw [if_neg h2]
        by_cases h3 : c.1 = j
        · simp only [assocGet, if_pos h3]
          rw [if_neg (by omega)]
        · simp only [assocGet, if_neg h3, ih]

/-- The numbers of a list after a write. -/
theorem mem_assocSet {l : List (Nat × α)} {k : Nat} {v : α} {c : Nat × α} (h : c ∈ assocSet l k v) :
    c = (k, v) ∨ c ∈ l := by
  induction l with
  | nil => simp only [assocSet, List.mem_singleton] at h; exact Or.inl h
  | cons d ds ih =>
    unfold assocSet at h
    split at h
    · simpa using h
    · split at h
      · rcases List.mem_cons.1 h with h | h
        · exact Or.inl h
        · exact Or.inr (List.mem_cons_of_mem _ h)
      · rcases List.mem_cons.1 h with h | h
        · exact Or.inr (h ▸ List.mem_cons_self ..)
        · rcases ih h with h | h
          · exact Or.inl h
          · exact Or.inr (List.mem_cons_of_mem _ h)

theorem assocSorted_iff (l : List (Nat × α)) : assocSorted l = true ↔ l.Pairwise (fun c d => c.1 < d.1) := by
  simp [assocSorted]

/-- A write keeps the canonical form. -/
theorem assocSorted_assocSet (l : List (Nat × α)) (k : Nat) (v : α) (h : assocSorted l = true) :
    assocSorted (assocSet l k v) = true := by
  rw [assocSorted_iff] at h ⊢
  induction l with
  | nil => simp [assocSet]
  | cons c cs ih =>
    obtain ⟨hc, hcs⟩ := List.pairwise_cons.1 h
    unfold assocSet
    split
    · rename_i h1
      refine List.pairwise_cons.2 ⟨fun d hd => ?_, h⟩
      rcases List.mem_cons.1 hd with rfl | hd
      · exact h1
      · exact Nat.lt_trans h1 (hc d hd)
    · split
      · rename_i h2
        exact List.pairwise_cons.2 ⟨fun d hd => by simpa [h2] using hc d hd, hcs⟩
      · refine List.pairwise_cons.2 ⟨fun d hd => ?_, ih hcs⟩
        rcases mem_assocSet hd with rfl | hd
        · show c.1 < k; omega
        · exact hc d hd

end

/-! ## Sets of numbers -/

theorem mem_setInsert (l : List Nat) (k b : Nat) : b ∈ setInsert l k ↔ b = k ∨ b ∈ l := by
  induction l with
  | nil => simp [setInsert]
  | cons c cs ih =>
    unfold setInsert
    split
    · simp
    · split
      · rename_i h; subst h; simp
      · simp [ih]; tauto

theorem pairwise_setInsert (l : List Nat) (k : Nat) (h : l.Pairwise (· < ·)) : (setInsert l k).Pairwise (· < ·) := by
  induction l with
  | nil => simp [setInsert]
  | cons c cs ih =>
    obtain ⟨hc, hcs⟩ := List.pairwise_cons.1 h
    unfold setInsert
    split
    · rename_i h1
      refine List.pairwise_cons.2 ⟨fun d hd => ?_, h⟩
      rcases List.mem_cons.1 hd with rfl | hd
      · exact h1
      · exact Nat.lt_trans h1 (hc d hd)
    · split
      · exact h
      · refine List.pairwise_cons.2 ⟨fun d hd => ?_, ih hcs⟩
        rcases (mem_setInsert _ _ _).1 hd with rfl | hd
        · omega
        · exact hc d hd

theorem mem_setErase (l : List Nat) (k b : Nat) : b ∈ setErase l k ↔ b ∈ l ∧ b ≠ k := by
  simp [setErase]

theorem pairwise_setErase (l : List Nat) (k : Nat) (h : l.Pairwise (· < ·)) : (setErase l k).Pairwise (· < ·) :=
  List.Pairwise.filter _ h

/-! ## The canonical form of memory -/

theorem Memory.wf_iff (m : Memory) : m.wf = true ↔ assocSorted m = true ∧ ∀ c ∈ m, c.1 < 2 ^ 32 := by
  simp [Memory.wf]

theorem Memory.wf_assocSet (m : Memory) (a : Word) (v : Byte) (h : m.wf = true) :
    Memory.wf (assocSet m a.toNat v) = true := by
  rw [Memory.wf_iff] at h ⊢
  refine ⟨assocSorted_assocSet m _ v h.1, fun c hc => ?_⟩
  rcases mem_assocSet hc with rfl | hc
  · exact a.isLt
  · exact h.2 c hc

theorem Memory.wf_putBytes (bs : List Byte) (m : Memory) (a : Word) (h : m.wf = true) :
    Memory.wf (putBytes m a bs) = true := by
  induction bs generalizing m a with
  | nil => exact h
  | cons b bs ih => exact ih _ _ (Memory.wf_assocSet m a b h)

theorem Memory.wf_loseBytes (keep : Nat → Bool) (n : Nat) (b : Word) (k : Nat) (m : Memory)
    (h : m.wf = true) : Memory.wf (loseBytes keep n b k m) = true := by
  induction k with
  | zero => exact h
  | succ k ih =>
    unfold loseBytes
    dsimp only
    split
    · exact ih
    · exact Memory.wf_assocSet _ _ _ ih

/-- Reset memory has the canonical form. -/
theorem Memory.wf_reset : State.reset.mem.wf = true := by decide

/-! ## Reading stored bytes -/

/-- What memory holds after bytes are put from `a` on. -/
theorem assocGet_putBytes (bs : List Byte) (m : Memory) (a k : Word) (hl : bs.length ≤ 2 ^ 32) :
    assocGet (putBytes m a bs) k.toNat =
      if (k - a).toNat < bs.length then bs[(k - a).toNat]? else assocGet m k.toNat := by
  induction bs generalizing m a with
  | nil => simp [putBytes]
  | cons b bs ih =>
    rw [putBytes, ih _ _ (by simp at hl; omega), assocGet_assocSet]
    simp only [List.length_cons] at hl ⊢
    by_cases hk : k = a
    · subst hk
      have h0 : ((k - (k + 1) : Word)).toNat = 2 ^ 32 - 1 := by
        have : (k - (k + 1) : Word) = -1#32 := by bv_omega
        rw [this]; rfl
      rw [h0, if_neg (by omega)]
      simp
    · have hne : ¬ a.toNat = k.toNat := fun h => hk (BitVec.eq_of_toNat_eq h.symm)
      have hx : (k - a).toNat = (k - (a + 1)).toNat + 1 := by bv_omega
      rw [if_neg hne, hx]
      simp

/-- The bytes `putAt` leaves, through the model's read of one byte. -/
theorem StoredAt_putAt (s : State) (a : Word) (bs : List Byte) (hl : bs.length ≤ 2 ^ 32) :
    StoredAt s (s.putAt a bs) a bs := fun k => assocGet_putBytes bs s.mem a k hl

/-- The blocks `putAt` leaves in `dirty_code`. -/
theorem DirtiedAt_putAt (s : State) (a : Word) (bs : List Byte) : DirtiedAt s (s.putAt a bs) a :=
  fun b => mem_setInsert s.dirtyCode _ b

/-- A byte of a block after it is lost: a free value where the byte is not kept. -/
theorem assocGet_loseBytes (keep : Nat → Bool) (n : Nat) (b k : Word) (j : Nat) (m : Memory) (hj : j ≤ 32) :
    assocGet (loseBytes keep n b j m) k.toNat =
      if (k - b).toNat < j ∧ keep (k - b).toNat = false then some (Config.freeByte (n + (k - b).toNat))
      else assocGet m k.toNat := by
  induction j with
  | zero => simp [loseBytes]
  | succ j ih =>
    have ih := ih (by omega)
    have hkb : (k - b).toNat = j ↔ b + BitVec.ofNat 32 j = k := by
      constructor
      · intro h; apply BitVec.eq_of_toNat_eq; rw [← h]; bv_omega
      · intro h; rw [← h]; have : (BitVec.ofNat 32 j).toNat = j := by rw [BitVec.toNat_ofNat]; omega
        bv_omega
    unfold loseBytes
    dsimp only
    by_cases hc : keep j = true
    · rw [if_pos hc, ih]
      by_cases he : (k - b).toNat = j
      · rw [if_neg (by omega), if_neg (by rw [he, hc]; simp)]
      · congr 1
        apply propext; constructor
        · rintro ⟨h1, h2⟩; exact ⟨by omega, h2⟩
        · rintro ⟨h1, h2⟩; exact ⟨by omega, h2⟩
    · rw [if_neg hc, assocGet_assocSet, ih]
      by_cases he : (k - b).toNat = j
      · rw [if_pos (by rw [hkb.1 he]), if_pos ⟨by omega, by rw [he]; simpa using hc⟩, he]
      · rw [if_neg (fun h => he (hkb.2 (BitVec.eq_of_toNat_eq h)))]
        congr 1
        apply propext; constructor
        · rintro ⟨h1, h2⟩; exact ⟨by omega, h2⟩
        · rintro ⟨h1, h2⟩; exact ⟨by omega, h2⟩

/-- The memory of a launch is in its canonical form. -/
theorem Memory.wf_launchImage (ps : List Config.Region) (image : List Host.Cell) :
    Memory.wf (launchImage ps image) = true := by
  induction image with
  | nil => rfl
  | cons c cs ih =>
    unfold launchImage
    dsimp only
    split
    · exact Memory.wf_assocSet _ _ _ ih
    · exact ih

/-- Every byte of a launch image lies in a ram or rom region. -/
theorem mem_launchImage (ps : List Config.Region) (image : List Host.Cell) :
    ∀ c ∈ launchImage ps image, ∃ k, regionKind ps (BitVec.ofNat 32 c.1) = some k ∧ k ≠ .device := by
  induction image with
  | nil => simp [launchImage]
  | cons d ds ih =>
    unfold launchImage
    dsimp only
    split
    · rename_i hr
      intro c hc
      rcases mem_assocSet hc with rfl | hc
      · simp only [BitVec.ofNat_toNat, BitVec.setWidth_eq]
        rcases hr with hr | hr <;> exact ⟨_, hr, by simp⟩
      · exact ih c hc
    · exact ih

/-! ## Byte order -/

@[simp] theorem joinHalf_splitHalf (e : Config.Endian) (v : Half) :
    joinHalf e (splitHalf e v).1 (splitHalf e v).2 = v := by
  have h : v.extractLsb' 8 8 ++ v.extractLsb' 0 8 = v := by
    apply BitVec.eq_of_getLsbD_eq
    intro i hi
    simp only [BitVec.getLsbD_append, BitVec.getLsbD_extractLsb']
    by_cases h : i < 8
    · simp [h]
    · simp [h, show i - 8 < 8 by omega, show 8 + (i - 8) = i by omega]
  cases e <;> exact h

@[simp] theorem joinLong_splitLong (e : Config.Endian) (v : Word) :
    joinLong e (splitLong e v).1 (splitLong e v).2.1 (splitLong e v).2.2.1 (splitLong e v).2.2.2 = v := by
  have h : v.extractLsb' 24 8 ++ v.extractLsb' 16 8 ++ v.extractLsb' 8 8 ++ v.extractLsb' 0 8 = v := by
    apply BitVec.eq_of_getLsbD_eq
    intro i hi
    simp only [BitVec.getLsbD_append, BitVec.getLsbD_extractLsb']
    by_cases h : i < 8
    · simp [h]
    · by_cases h2 : i < 16
      · simp [h, show i - 8 < 8 by omega, show 8 + (i - 8) = i by omega]
      · by_cases h3 : i < 24
        · simp [h, show ¬ i - 8 < 8 by omega, show i - 8 - 8 < 8 by omega, show 16 + (i - 8 - 8) = i by omega]
        · simp [h, show ¬ i - 8 < 8 by omega, show ¬ i - 8 - 8 < 8 by omega, show i - 8 - 8 - 8 < 8 by omega,
            show 24 + (i - 8 - 8 - 8) = i by omega]
  cases e <;> exact h

end Sys2Proof.Machine
end

