-- ==== Sys2Proof/Laws/Ops.lean ====
section
/-! SUPPORT. For each shared operation, once, everything it can do: the checks and accesses of memory, raising an exception,
and the ways an instruction ends. -/

namespace Sys2Proof.Machine

/-! ## Checks -/

theorem checkAligned_ok {a : Word} {n : Nat} {e : Exc} {u : Unit} :
    checkAligned a n e = .ok u ↔ a.toNat % n = 0 := by
  unfold checkAligned; split <;> simp_all

theorem checkPrivilege_ok {s : State} {a : Word} {e : Exc} {u : Unit} :
    checkPrivilege s a e = .ok u ↔ s.mayAccess a = true := by
  unfold checkPrivilege State.mayAccess
  cases s.md <;> cases a.msb <;> simp

theorem checkRead_ok {s : State} {a : Word} {u : Unit} : checkRead s a = .ok u ↔ s.readableAt a = true := by
  unfold checkRead State.readableAt
  cases isControl a <;> simp
  rcases regionKind s.params.memMap a with _ | k
  · simp
  · cases k <;> simp

theorem checkWrite_ok {s : State} {a : Word} {u : Unit} : checkWrite s a = .ok u ↔ s.writableAt a = true := by
  unfold checkWrite State.writableAt
  cases isControl a <;> simp
  rcases regionKind s.params.memMap a with _ | k
  · simp
  · cases k <;> simp

theorem heldByte_ok {s : State} {a : Word} {b : Byte} : heldByte s a = .ok b ↔ s.holds a = some b := by
  unfold heldByte State.holds; split <;> simp_all

/-- Sequencing of accesses, from the back. -/
theorem access_bind_ok {α β : Type} {x : Access α} {f : α → Access β} {b : β} :
    x >>= f = .ok b ↔ ∃ a, x = .ok a ∧ f a = .ok b := by
  cases x <;> simp [bind, Except.bind]

/-- Mapping an access, from the back. -/
theorem access_map_ok {α β : Type} {x : Access α} {f : α → β} {b : β} :
    x.map f = .ok b ↔ ∃ a, x = .ok a ∧ f a = b := by
  cases x <;> simp [Except.map]

/-- A map keeps the reason an access stops. -/
theorem access_map_error {α β : Type} {x : Access α} {f : α → β} {e : Stop} :
    x.map f = .error e ↔ x = .error e := by
  cases x <;> simp [Except.map]

/-- An aligned longword is no mapped register when its first byte is not. -/
theorem controlReg_none {a : Word} (ha : a.toNat % 4 = 0) (h : isControl a = false) : controlReg a = none := by
  have hm : a &&& 0xFFFFFFFC#32 = a := by
    apply BitVec.eq_of_toNat_eq
    have h1 : a &&& 0xFFFFFFFC#32 = (a >>> 2) <<< 2 := by
      apply BitVec.eq_of_getLsbD_eq
      intro i hi
      have hc : ∀ j < 32, (0xFFFFFFFC#32).getLsbD j = decide (2 ≤ j) := by decide
      simp only [BitVec.getLsbD_and, BitVec.getLsbD_shiftLeft, BitVec.getLsbD_ushiftRight, hc i hi]
      by_cases hi2 : i < 2
      · simp [show ¬ 2 ≤ i by omega, hi2]
      · simp [show 2 ≤ i by omega, show ¬ i < 2 by omega, hi, show 2 + (i - 2) = i by omega]
    rw [h1]
    simp only [BitVec.toNat_shiftLeft, BitVec.toNat_ushiftRight, Nat.shiftLeft_eq, Nat.shiftRight_eq_div_pow]
    omega
  simpa [isControl, hm] using h

/-! ## Device regions -/

/-- A byte that can be read is in no device region. -/
theorem isDevice_of_readable {s : State} {a : Word} (h : s.readableAt a = true) : s.isDevice a = false := by
  unfold State.readableAt at h
  unfold State.isDevice
  cases hr : regionKind s.params.memMap a with
  | none => simp
  | some k => cases k <;> simp_all

/-- A byte that can be stored to can be read. -/
theorem readable_of_writable {s : State} {a : Word} (h : s.writableAt a = true) : s.readableAt a = true := by
  unfold State.writableAt at h
  unfold State.readableAt
  simp_all

/-- Where a load of memory can be made there is no device. -/
theorem isDevice_of_loads {s : State} {a : Word} {b : Byte} {bs : List Byte} (h : Loads s a (b :: bs)) :
    s.isDevice a = false := by
  have := (h.2.2 0 (by simp)).1
  exact isDevice_of_readable (by simpa using this)

/-- Where a store to memory can be made there is no device. -/
theorem isDevice_of_storable {s : State} {a : Word} {n : Nat} (h : Storable s a (n + 1)) : s.isDevice a = false := by
  have := h.2.2 0 (by omega)
  exact isDevice_of_readable (readable_of_writable (by simpa using this))

/-- Outside device regions the host is not asked. -/
theorem hostTaken_of_not_device {s : State} {a : Word} (h : s.isDevice a = false) : s.hostTaken a = s := by
  unfold State.hostTaken; rw [if_neg (by simp [h])]

/-- The address map alone says where devices are. -/
theorem isDevice_congr {s t : State} (h : t.params = s.params) (a : Word) : t.isDevice a = s.isDevice a := by
  unfold State.isDevice; rw [h]

/-- After a load of memory made at `s`, the host's answers are untouched. -/
theorem hostTaken_of_loads {s t : State} {a : Word} {b : Byte} {bs : List Byte} (h : Loads s a (b :: bs))
    (hp : t.params = s.params) : t.hostTaken a = t :=
  hostTaken_of_not_device (by rw [isDevice_congr hp]; exact isDevice_of_loads h)

/-- A check of each byte passes exactly where it passes for every one of them. -/
theorem checkEach_ok {check : Word → Access Unit} {a : Word} {n : Nat} {u : Unit} :
    checkEach check a n = .ok u ↔ ∀ k < n, check (a + BitVec.ofNat 32 k) = .ok () := by
  induction n with
  | zero => simp [checkEach]
  | succ n ih =>
    simp only [checkEach, access_bind_ok, ih]
    constructor
    · rintro ⟨-, h, h'⟩ k hk
      rcases Nat.lt_succ_iff_lt_or_eq.1 hk with hk | rfl
      · exact h k hk
      · exact h'
    · exact fun h => ⟨(), fun k hk => h k (by omega), h n (by omega)⟩

/-- A check of each byte stops as it stops for the first byte it does not pass for. -/
theorem checkEach_error {check : Word → Access Unit} {a : Word} {n k : Nat} {x : Stop} (hk : k < n)
    (h : ∀ j < k, check (a + BitVec.ofNat 32 j) = .ok ()) (hx : check (a + BitVec.ofNat 32 k) = .error x) :
    checkEach check a n = .error x := by
  induction n with
  | zero => omega
  | succ n ih =>
    rcases Nat.lt_succ_iff_lt_or_eq.1 hk with hk | rfl
    · simp [checkEach, ih hk, bind, Except.bind]
    · have hc : checkEach check a k = .ok () := checkEach_ok.2 h
      simp [checkEach, hc, hx, bind, Except.bind]

theorem checkHostRead_ok {s : State} {a : Word} {u : Unit} :
    checkHostRead s a = .ok u ↔ (s.isDevice a || s.readableAt a) = true := by
  unfold checkHostRead; cases s.isDevice a <;> simp [checkRead_ok]

theorem checkHostWrite_ok {s : State} {a : Word} {u : Unit} :
    checkHostWrite s a = .ok u ↔ (s.isDevice a || s.writableAt a) = true := by
  unfold checkHostWrite; cases s.isDevice a <;> simp [checkWrite_ok]

/-- The host answers a read exactly where its next answer is for it. -/
theorem hostAnswer_ok {s : State} {a v : Word} {n : Nat} :
    hostAnswer s a n = .ok v ↔ s.host.head? = some (.read a n v) := by
  unfold hostAnswer
  cases s.host with
  | nil => simp
  | cons x xs =>
    cases x with
    | written b m => simp
    | read b m w =>
      by_cases h : b = a ∧ m = n
      · obtain ⟨rfl, rfl⟩ := h; simp
      · simp only [if_neg h, List.head?_cons, Option.some.injEq, HostAnswer.read.injEq, reduceCtorEq, false_iff]
        rintro ⟨rfl, rfl, -⟩; exact h ⟨rfl, rfl⟩

/-- A read of a device answers what the host answers, exactly where each byte may be read. -/
theorem hostRead_ok {s : State} {a v : Word} {n : Nat} :
    hostRead s a n = .ok v ↔ HostReadable s a n ∧ s.host.head? = some (.read a n v) := by
  simp only [hostRead, access_bind_ok, checkEach_ok, checkHostRead_ok, hostAnswer_ok, HostReadable]
  exact ⟨fun ⟨_, h⟩ => h, fun h => ⟨(), h⟩⟩

/-- A read of a device in which a byte is the first that may not be read stops as the check of that byte does. -/
theorem hostRead_error {s : State} {a : Word} {n k : Nat} {x : Stop} (hk : k < n)
    (h : ∀ j < k, checkHostRead s (a + BitVec.ofNat 32 j) = .ok ())
    (hx : checkHostRead s (a + BitVec.ofNat 32 k) = .error x) : hostRead s a n = .error x := by
  simp [hostRead, checkEach_error hk h hx, bind, Except.bind]

/-- The host takes a store, uses its answer up and makes the block dirty, exactly where its next answer is for it. -/
theorem hostTakes_ok {s t : State} {a : Word} {n : Nat} :
    hostTakes s a n = .ok t ↔ s.host.head? = some (.written a n) ∧ t = (s.hostTaken a).markDirty a := by
  unfold hostTakes
  cases s.host with
  | nil => simp
  | cons x xs =>
    cases x with
    | read b m w => simp
    | written b m =>
      by_cases h : b = a ∧ m = n
      · obtain ⟨rfl, rfl⟩ := h; simp [eq_comm]
      · simp only [if_neg h, List.head?_cons, Option.some.injEq, HostAnswer.written.injEq, reduceCtorEq, false_iff,
          not_and]
        exact fun hb => absurd hb h

/-- A store to a device does what the host's taking it does, exactly where each byte may be stored to. -/
theorem hostWrite_ok {s t : State} {a : Word} {n : Nat} :
    hostWrite s a n = .ok t ↔
      (HostWritable s a n ∧ s.host.head? = some (.written a n)) ∧ t = (s.hostTaken a).markDirty a := by
  simp only [hostWrite, access_bind_ok, checkEach_ok, checkHostWrite_ok, hostTakes_ok, HostWritable]
  exact ⟨fun ⟨_, h, h1, h2⟩ => ⟨⟨h, h1⟩, h2⟩, fun ⟨⟨h, h1⟩, h2⟩ => ⟨(), h, h1, h2⟩⟩

/-! ## Reads -/

/-- `MemRead(a, 1)` answers exactly where a byte can be loaded or the host answers. -/
theorem readByte_ok {s : State} {a : Word} {v : Byte} :
    readByte s a = .ok v ↔ Loads s a [v] ∨ ∃ w, AnswersRead s a 1 w ∧ v = w.setWidth 8 := by
  simp only [readByte, access_bind_ok, checkPrivilege_ok, AnswersRead, Nat.mod_one, true_and]
  cases hd : s.isDevice a with
  | true =>
    simp only [if_true, access_bind_ok, hostRead_ok, pure, Except.pure, Except.ok.injEq]
    constructor
    · rintro ⟨-, h1, w, h2, rfl⟩; exact Or.inr ⟨w, ⟨h1, trivial, h2⟩, rfl⟩
    · rintro (h | ⟨w, ⟨h1, -, h2⟩, rfl⟩)
      · rw [isDevice_of_loads h] at hd; cases hd
      · exact ⟨(), h1, w, h2, rfl⟩
  | false =>
    simp only [Bool.false_eq_true, if_false, access_bind_ok, checkRead_ok, heldByte_ok, Loads]
    constructor
    · rintro ⟨-, h1, -, h2, h3⟩
      refine Or.inl ⟨Nat.mod_one _, h1, fun k hk => ?_⟩
      obtain rfl : k = 0 := by simpa using hk
      simpa using ⟨h2, h3⟩
    · rintro (⟨-, h1, h⟩ | ⟨w, ⟨-, h, -⟩, -⟩)
      · have := h 0 (by simp)
        exact ⟨(), h1, (), by simpa using this.1, by simpa using this.2⟩
      · cases h

theorem splitHalf_joinHalf (e : Config.Endian) (b0 b1 : Byte) : splitHalf e (joinHalf e b0 b1) = (b0, b1) := by
  have h1 : ∀ x y : Byte, (x ++ y).extractLsb' 8 8 = x := by
    intro x y; apply BitVec.eq_of_getLsbD_eq; intro i hi
    simp only [BitVec.getLsbD_append, BitVec.getLsbD_extractLsb', hi, decide_true, Bool.true_and]
    simp [show ¬ 8 + i < 8 by omega]
  have h2 : ∀ x y : Byte, (x ++ y).extractLsb' 0 8 = y := by
    intro x y; apply BitVec.eq_of_getLsbD_eq; intro i hi
    simp only [BitVec.getLsbD_append, BitVec.getLsbD_extractLsb', hi, decide_true, Bool.true_and]
    simp [hi]
  cases e <;> simp [splitHalf, joinHalf, h1, h2]

/-- The word at `a` as `MemRead` assembles it, exactly where both bytes can be loaded. -/
theorem halfAt_ok {s : State} {a : Word} {v : Half} :
    halfAt s a = .ok v ↔
      ∀ k < 2, s.readableAt (a + BitVec.ofNat 32 k) = true ∧ s.holds (a + BitVec.ofNat 32 k) = (halfBytes s v)[k]? := by
  simp only [halfAt, access_bind_ok, checkEach_ok, checkRead_ok, heldByte_ok]
  constructor
  · rintro ⟨-, h, b0, h3, b1, h4, h5⟩
    have h1 := h 0 (by omega)
    have h2 := h 1 (by omega)
    obtain rfl : joinHalf s.params.endian b0 b1 = v := by simpa [pure, Except.pure] using h5
    intro k hk
    have : k = 0 ∨ k = 1 := by omega
    rcases this with rfl | rfl <;> simp_all [halfBytes, splitHalf_joinHalf]
  · intro h
    have h0 := h 0 (by omega)
    have h1 := h 1 (by omega)
    simp only [halfBytes, List.getElem?_cons_zero, List.getElem?_cons_succ] at h0 h1
    exact ⟨(), fun k hk => (h k hk).1, _, by simpa using h0.2, _, by simpa using h1.2, by simp [pure, Except.pure]⟩

/-- The word at `a` is memory's where both bytes can be loaded, the host's where it answers, exactly. -/
theorem wordAt_ok {s : State} {a : Word} {w : Half} :
    wordAt s a = .ok w ↔
      (∀ k < 2, s.readableAt (a + BitVec.ofNat 32 k) = true ∧ s.holds (a + BitVec.ofNat 32 k) = (halfBytes s w)[k]?) ∨
      (s.isDevice a = true ∧ HostReadable s a 2 ∧ ∃ v : Word, s.host.head? = some (.read a 2 v) ∧ w = v.setWidth 16) := by
  unfold wordAt
  cases hd : s.isDevice a with
  | true =>
    simp only [if_true, access_bind_ok, hostRead_ok, pure, Except.pure, Except.ok.injEq, true_and]
    constructor
    · rintro ⟨v, ⟨h1, h2⟩, rfl⟩; exact Or.inr ⟨h1, v, h2, rfl⟩
    · rintro (h | ⟨h1, v, h2, rfl⟩)
      · have := isDevice_of_readable (h 0 (by omega)).1
        simp [hd] at this
      · exact ⟨v, ⟨h1, h2⟩, rfl⟩
  | false => simp [halfAt_ok]

/-- `MemRead(a, 2)` answers exactly where a word can be loaded or the host answers. -/
theorem readHalf_ok {s : State} {a : Word} {v : Half} :
    readHalf s a = .ok v ↔ Loads s a (halfBytes s v) ∨ ∃ w, AnswersRead s a 2 w ∧ v = w.setWidth 16 := by
  simp only [readHalf, access_bind_ok, checkAligned_ok, checkPrivilege_ok, wordAt_ok, AnswersRead, Loads]
  constructor
  · rintro ⟨-, h0, -, h1, h | ⟨hd, hr, w, h2, rfl⟩⟩
    · exact Or.inl ⟨h0, h1, h⟩
    · exact Or.inr ⟨w, ⟨h0, h1, hd, hr, h2⟩, rfl⟩
  · rintro (⟨h0, h1, h⟩ | ⟨w, ⟨h0, h1, hd, hr, h2⟩, rfl⟩)
    · exact ⟨(), h0, (), h1, Or.inl h⟩
    · exact ⟨(), h0, (), h1, Or.inr ⟨hd, hr, w, h2, rfl⟩⟩

theorem splitLong_joinLong (e : Config.Endian) (b0 b1 b2 b3 : Byte) :
    splitLong e (joinLong e b0 b1 b2 b3) = (b0, b1, b2, b3) := by
  have h (w x y z : Byte) : (w ++ x ++ y ++ z).extractLsb' 24 8 = w ∧ (w ++ x ++ y ++ z).extractLsb' 16 8 = x ∧
      (w ++ x ++ y ++ z).extractLsb' 8 8 = y ∧ (w ++ x ++ y ++ z).extractLsb' 0 8 = z := by
    refine ⟨?_, ?_, ?_, ?_⟩ <;> apply BitVec.eq_of_getLsbD_eq <;> intro i hi <;>
      simp only [BitVec.getLsbD_append, BitVec.getLsbD_extractLsb', hi, decide_true, Bool.true_and]
    · simp [show ¬ 24 + i < 8 by omega, show ¬ 24 + i - 8 < 8 by omega, show ¬ 24 + i - 8 - 8 < 8 by omega,
        show 24 + i - 8 - 8 - 8 = i by omega]
    · simp [show ¬ 16 + i < 8 by omega, show ¬ 16 + i - 8 < 8 by omega, show 16 + i - 8 - 8 = i by omega, hi]
    · simp [show ¬ 8 + i < 8 by omega, hi]
    · simp [hi]
  cases e <;> simp [splitLong, joinLong, h]

/-- The longword at `a` as `MemRead` assembles it, exactly where its four bytes can be loaded. -/
theorem longAt_ok {s : State} {a v : Word} :
    longAt s a = .ok v ↔
      ∀ k < 4, s.readableAt (a + BitVec.ofNat 32 k) = true ∧ s.holds (a + BitVec.ofNat 32 k) = (longBytes s v)[k]? := by
  simp only [longAt, access_bind_ok, checkEach_ok, checkRead_ok, heldByte_ok]
  constructor
  · rintro ⟨-, hr, b0, g0, b1, g1, b2, g2, b3, g3, h⟩
    have h0 := hr 0 (by omega)
    have h1 := hr 1 (by omega)
    have h2 := hr 2 (by omega)
    have h3 := hr 3 (by omega)
    obtain rfl : joinLong s.params.endian b0 b1 b2 b3 = v := by simpa [pure, Except.pure] using h
    intro k hk
    have : k = 0 ∨ k = 1 ∨ k = 2 ∨ k = 3 := by omega
    rcases this with rfl | rfl | rfl | rfl <;> simp_all [longBytes, splitLong_joinLong]
  · intro h
    have h0 := h 0 (by omega)
    have h1 := h 1 (by omega)
    have h2 := h 2 (by omega)
    have h3 := h 3 (by omega)
    simp only [longBytes, List.getElem?_cons_zero, List.getElem?_cons_succ] at h0 h1 h2 h3
    exact ⟨(), fun k hk => (h k hk).1, _, by simpa using h0.2, _, by simpa using h1.2, _, by simpa using h2.2, _, by simpa using h3.2,
      by simp [pure, Except.pure]⟩

theorem length_longBytes (s : State) (v : Word) : (longBytes s v).length = 4 := rfl

theorem length_halfBytes (s : State) (v : Half) : (halfBytes s v).length = 2 := rfl

/-- `MemRead(a, 4)` answers where a longword can be loaded from memory. -/
theorem readLong_of_loads {s : State} {a v : Word} (h : Loads s a (longBytes s v)) : readLong s a = .ok v := by
  obtain ⟨h1, h2, h3⟩ := h
  have hc : controlReg a = none := by
    refine controlReg_none h1 ?_
    have := (h3 0 (by simp [longBytes])).1
    simp [State.readableAt] at this
    exact this.1
  have hd : s.isDevice a = false := isDevice_of_loads (b := (longBytes s v).head (by simp [longBytes])) ⟨h1, h2, h3⟩
  simp only [readLong, access_bind_ok, checkAligned_ok, checkPrivilege_ok, hc, hd, Bool.false_eq_true, if_false]
  exact ⟨(), h1, (), h2, longAt_ok.2 h3⟩

/-- Everything `MemRead(a, 4)` can answer: a mapped register, what the host answers, or a longword of memory. -/
theorem readLong_ok {s : State} {a v : Word} (h : readLong s a = .ok v) :
    a.toNat % 4 = 0 ∧ s.mayAccess a = true ∧
      ((∃ c, controlReg a = some c ∧ v = s.controlRead c) ∨ AnswersRead s a 4 v ∨
        (controlReg a = none ∧ Loads s a (longBytes s v))) := by
  simp only [readLong, access_bind_ok, checkAligned_ok, checkPrivilege_ok] at h
  obtain ⟨-, h1, -, h2, h3⟩ := h
  refine ⟨h1, h2, ?_⟩
  cases hc : controlReg a with
  | some c =>
    simp only [hc, pure, Except.pure, Except.ok.injEq] at h3
    exact Or.inl ⟨c, rfl, h3.symm⟩
  | none =>
    simp only [hc] at h3
    cases hd : s.isDevice a with
    | true =>
      rw [hd, if_pos rfl] at h3
      exact Or.inr (Or.inl ⟨h1, h2, hd, hostRead_ok.1 h3⟩)
    | false =>
      rw [hd, if_neg (by simp)] at h3
      exact Or.inr (Or.inr ⟨rfl, h1, h2, longAt_ok.1 h3⟩)

/-! ## Writes -/

/-- `MemWrite(a, 1, v)` exactly. -/
theorem writeByte_ok {s t : State} {a : Word} {v : Byte} :
    writeByte s a v = .ok t ↔ (Storable s a 1 ∧ t = s.putAt a [v]) ∨
      (AnswersWrite s a 1 ∧ t = (s.hostTaken a).markDirty a) := by
  simp only [writeByte, access_bind_ok, checkPrivilege_ok, AnswersWrite, Nat.mod_one, true_and]
  cases hd : s.isDevice a with
  | true =>
    simp only [if_true, hostWrite_ok]
    constructor
    · rintro ⟨-, h1, h2, rfl⟩; exact Or.inr ⟨⟨h1, trivial, h2⟩, rfl⟩
    · rintro (⟨h, -⟩ | ⟨⟨h1, -, h2⟩, rfl⟩)
      · rw [isDevice_of_storable h] at hd; cases hd
      · exact ⟨(), h1, h2, rfl⟩
  | false =>
    simp only [Bool.false_eq_true, if_false, access_bind_ok, checkWrite_ok, Storable, pure, Except.pure,
      Except.ok.injEq]
    constructor
    · rintro ⟨-, h1, -, h2, rfl⟩
      refine Or.inl ⟨⟨Nat.mod_one _, h1, fun k hk => ?_⟩, rfl⟩
      obtain rfl : k = 0 := by omega
      simpa using h2
    · rintro (⟨⟨-, h1, h⟩, rfl⟩ | ⟨⟨-, h, -⟩, -⟩)
      · exact ⟨(), h1, (), by simpa using h 0 (by omega), rfl⟩
      · cases h

/-- `MemWrite(a, 2, v)` exactly. -/
theorem writeHalf_ok {s t : State} {a : Word} {v : Half} :
    writeHalf s a v = .ok t ↔ (Storable s a 2 ∧ t = s.putAt a (halfBytes s v)) ∨
      (AnswersWrite s a 2 ∧ t = (s.hostTaken a).markDirty a) := by
  simp only [writeHalf, access_bind_ok, checkAligned_ok, checkPrivilege_ok, AnswersWrite]
  cases hd : s.isDevice a with
  | true =>
    simp only [if_true, hostWrite_ok]
    constructor
    · rintro ⟨-, h0, -, h1, h2, rfl⟩; exact Or.inr ⟨⟨h0, h1, trivial, h2⟩, rfl⟩
    · rintro (⟨h, -⟩ | ⟨⟨h0, h1, -, h2⟩, rfl⟩)
      · rw [isDevice_of_storable h] at hd; cases hd
      · exact ⟨(), h0, (), h1, h2, rfl⟩
  | false =>
    simp only [Bool.false_eq_true, if_false, access_bind_ok, checkEach_ok, checkWrite_ok, Storable, pure, Except.pure,
      Except.ok.injEq]
    constructor
    · rintro ⟨-, h0, -, h1, -, h, rfl⟩
      exact Or.inl ⟨⟨h0, h1, h⟩, rfl⟩
    · rintro (⟨⟨h0, h1, h⟩, rfl⟩ | ⟨⟨-, -, h, -⟩, -⟩)
      · exact ⟨(), h0, (), h1, (), h, rfl⟩
      · cases h

/-- `MemWrite(a, 4, v)` where a longword can be stored to memory. -/
theorem writeLong_of_storable {s : State} {a v : Word} (h : Storable s a 4) :
    writeLong s a v = .ok (s.putAt a (longBytes s v)) := by
  obtain ⟨h0, h1, h⟩ := h
  have hc : controlReg a = none := by
    refine controlReg_none h0 ?_
    have := h 0 (by omega)
    simp [State.writableAt] at this
    exact this.1
  have hd : s.isDevice a = false := isDevice_of_storable (n := 3) ⟨h0, h1, h⟩
  simp only [writeLong, access_bind_ok, checkAligned_ok, checkPrivilege_ok, hc, hd, Bool.false_eq_true, if_false,
    checkEach_ok, checkWrite_ok]
  exact ⟨(), h0, (), h1, (), h, rfl⟩

/-- What a store to a mapped register can do: PTEH, PTEL or MMUCR, the last without its bit 0, is written. -/
theorem controlWrite_ok {s t : State} {a v : Word} {c : ControlReg} (h : s.controlWrite a v c = .ok t) :
    (c = .pteh ∧ t = { s with pteh := v }) ∨ (c = .ptel ∧ t = { s with ptel := v }) ∨
      (c = .mmucr ∧ v.getLsbD 0 = false ∧ t = { s with mmucr := v }) := by
  cases c <;> simp only [State.controlWrite] at h
  case mmucr =>
    split at h
    · cases h
    · rename_i hv
      exact Or.inr (Or.inr ⟨rfl, by simpa using hv, (Except.ok.inj h).symm⟩)
  case pteh => exact Or.inl ⟨rfl, (Except.ok.inj h).symm⟩
  case ptel => exact Or.inr (Or.inl ⟨rfl, (Except.ok.inj h).symm⟩)
  all_goals cases h

/-- Everything `MemWrite(a, 4, v)` can do. -/
theorem writeLong_ok {s t : State} {a v : Word} (h : writeLong s a v = .ok t) :
    a.toNat % 4 = 0 ∧ s.mayAccess a = true ∧
      ((∃ c u, controlReg a = some c ∧ s.controlWrite a v c = .ok u ∧ t = u.markDirty a) ∨
        (AnswersWrite s a 4 ∧ t = (s.hostTaken a).markDirty a) ∨ (Storable s a 4 ∧ t = s.putAt a (longBytes s v))) := by
  simp only [writeLong, access_bind_ok, checkAligned_ok, checkPrivilege_ok] at h
  obtain ⟨-, h1, -, h2, h3⟩ := h
  refine ⟨h1, h2, ?_⟩
  cases hc : controlReg a with
  | some c =>
    simp only [hc, access_bind_ok, pure, Except.pure, Except.ok.injEq] at h3
    obtain ⟨u, hu, rfl⟩ := h3
    exact Or.inl ⟨c, u, rfl, hu, rfl⟩
  | none =>
    simp only [hc] at h3
    cases hd : s.isDevice a with
    | true =>
      rw [hd, if_pos rfl, hostWrite_ok] at h3
      exact Or.inr (Or.inl ⟨⟨h1, h2, hd, h3.1⟩, h3.2⟩)
    | false =>
      rw [hd, if_neg (by simp)] at h3
      simp only [access_bind_ok, checkEach_ok, checkWrite_ok, pure, Except.pure, Except.ok.injEq] at h3
      obtain ⟨-, g, rfl⟩ := h3
      exact Or.inr (Or.inr ⟨⟨h1, h2, g⟩, rfl⟩)

/-- The read of a byte checked as a load and a store (41_logical.md R180 (e)), exactly. -/
theorem readByteForUpdate_ok {s : State} {a : Word} {v : Byte} :
    readByteForUpdate s a = .ok v ↔
      (Loads s a [v] ∧ Storable s a 1) ∨ ∃ w, AnswersRead s a 1 w ∧ v = w.setWidth 8 := by
  simp only [readByteForUpdate, access_bind_ok, checkPrivilege_ok, AnswersRead, Nat.mod_one, true_and]
  cases hd : s.isDevice a with
  | true =>
    simp only [if_true, access_bind_ok, hostRead_ok, pure, Except.pure, Except.ok.injEq]
    constructor
    · rintro ⟨-, h1, w, h2, rfl⟩; exact Or.inr ⟨w, ⟨h1, trivial, h2⟩, rfl⟩
    · rintro (⟨h, -⟩ | ⟨w, ⟨h1, -, h2⟩, rfl⟩)
      · rw [isDevice_of_loads h] at hd; cases hd
      · exact ⟨(), h1, w, h2, rfl⟩
  | false =>
    simp only [Bool.false_eq_true, if_false, access_bind_ok, checkRead_ok, checkWrite_ok, heldByte_ok, Loads, Storable]
    constructor
    · rintro ⟨-, h1, -, h2, -, h3, h4⟩
      refine Or.inl ⟨⟨Nat.mod_one _, h1, fun k hk => ?_⟩, Nat.mod_one _, h1, fun k hk => ?_⟩
      · obtain rfl : k = 0 := by simpa using hk
        simpa using ⟨h2, h4⟩
      · obtain rfl : k = 0 := by omega
        simpa using h3
    · rintro (⟨⟨-, h1, h⟩, -, -, g⟩ | ⟨w, ⟨-, h, -⟩, -⟩)
      · have h0 := h 0 (by simp)
        exact ⟨(), h1, (), by simpa using h0.1, (), by simpa using g 0 (by omega), by simpa using h0.2⟩
      · cases h

/-! ## Raising an exception and ending an instruction -/

/-- Everything a raise can do: the entry of the exception, outside RTE's slot and with BL = 0, or a fault. -/
theorem raise_next {e : Exc} {s t : State} :
    raise e s = .next t ↔ s.inRteSlot = false ∧ s.bl = false ∧ t = s.enterException e := by
  unfold raise
  cases s.inRteSlot <;> cases s.bl <;> simp [eq_comm]

/-- Everything an instruction that may stop can end in, when it ends in a next state. -/
theorem complete_next {s t : State} {r : Access State} :
    complete s r = .next t ↔
      (∃ u, r = .ok u ∧ t = u.advance) ∨ (∃ e, r = .error (.exc e) ∧ raise e s = .next t) := by
  rcases r with x | u
  · cases x <;> simp [complete, stopWith]
  · simp [complete, done, eq_comm]

@[simp] theorem complete_ok (s t : State) : complete s (.ok t) = .next t.advance := rfl

@[simp] theorem complete_exc (s : State) (e : Exc) : complete s (.error (.exc e)) = raise e s := rfl

@[simp] theorem done_eq (t : State) : done t = .next t.advance := rfl

/-- A mode check passes or raises. -/
theorem whenPrivileged_next {s t : State} {k : Outcome} :
    whenPrivileged s k = .next t ↔ (s.md = true ∧ k = .next t) ∨ (s.md = false ∧ raiseIllegal s = .next t) := by
  unfold whenPrivileged; cases s.md <;> simp

theorem whenDsp_next {s t : State} {k : Outcome} :
    whenDsp s k = .next t ↔ (s.dsp = true ∧ k = .next t) ∨ (s.dsp = false ∧ raiseIllegal s = .next t) := by
  unfold whenDsp; cases s.dsp <;> simp

theorem whenPrivilegedOrDsp_next {s t : State} {k : Outcome} :
    whenPrivilegedOrDsp s k = .next t ↔
      ((s.md || s.dsp) = true ∧ k = .next t) ∨ ((s.md || s.dsp) = false ∧ raiseIllegal s = .next t) := by
  unfold whenPrivilegedOrDsp; cases (s.md || s.dsp) <;> simp

theorem whenNotInSlot_next {s t : State} {k : Outcome} :
    whenNotInSlot s k = .next t ↔
      (s.pending = none ∧ k = .next t) ∨ (s.pending ≠ none ∧ raise .slotIllegal s = .next t) := by
  unfold whenNotInSlot; cases s.pending <;> simp

/-- An illegal instruction raises one of two exceptions (60_exceptions.md R454, R455). -/
theorem raiseIllegal_next {s t : State} (h : raiseIllegal s = .next t) :
    ∃ e, (e = .slotIllegal ∨ e = .generalIllegal) ∧ raise e s = .next t := by
  unfold raiseIllegal at h
  split at h
  · exact ⟨_, Or.inl rfl, h⟩
  · exact ⟨_, Or.inr rfl, h⟩

/-! ## Loads and stores as instructions make them -/

/-- In a device region the host's next answer is used up. -/
theorem hostTaken_of_device {s : State} {a : Word} (h : s.isDevice a = true) :
    s.hostTaken a = { s with host := s.host.tail } := by
  unfold State.hostTaken; rw [if_pos h]

@[simp] theorem State.loadInc_params (s : State) (m n : Reg) (z v : Word) : (s.loadInc m n z v).params = s.params := by
  unfold State.loadInc; split <;> simp

/-- A byte load from memory completes with the byte. -/
theorem loadByte_of_loads {s : State} {a : Word} {v : Byte} {k : Byte → State} (h : Loads s a [v])
    (hp : (k v).params = s.params) : loadByte s a k = done (k v) := by
  simp [loadByte, readByte_ok.2 (Or.inl h), Except.map, complete, hostTaken_of_loads h hp]

/-- A word load from memory completes with the word. -/
theorem loadHalf_of_loads {s : State} {a : Word} {v : Half} {k : Half → State} (h : Loads s a (halfBytes s v))
    (hp : (k v).params = s.params) : loadHalf s a k = done (k v) := by
  simp [loadHalf, readHalf_ok.2 (Or.inl h), Except.map, complete, hostTaken_of_loads h hp]

/-- A longword load from memory completes with the longword. -/
theorem loadLong_of_loads {s : State} {a v : Word} {k : Word → State} (h : Loads s a (longBytes s v))
    (hp : (k v).params = s.params) : loadLong s a k = done (k v) := by
  simp [loadLong, readLong_of_loads h, Except.map, complete, hostTaken_of_loads h hp]

/-- A longword that the host answers is what `MemRead(a, 4)` gives. -/
theorem readLong_of_answers {s : State} {a v : Word} (h : AnswersRead s a 4 v) : readLong s a = .ok v := by
  obtain ⟨h1, h2, h3, h4⟩ := h
  have hc : controlReg a = none := controlReg_none h1 (by simp [State.isDevice] at h3; exact h3.1)
  simp only [readLong, access_bind_ok, checkAligned_ok, checkPrivilege_ok, hc, h3, if_true]
  exact ⟨(), h1, (), h2, hostRead_ok.2 h4⟩

/-- A longword store that the host takes. -/
theorem writeLong_of_answers {s : State} {a v : Word} (h : AnswersWrite s a 4) :
    writeLong s a v = .ok ((s.hostTaken a).markDirty a) := by
  obtain ⟨h1, h2, h3, h4⟩ := h
  have hc : controlReg a = none := controlReg_none h1 (by simp [State.isDevice] at h3; exact h3.1)
  simp only [writeLong, access_bind_ok, checkAligned_ok, checkPrivilege_ok, hc, h3, if_true]
  exact ⟨(), h1, (), h2, hostWrite_ok.2 ⟨h4, rfl⟩⟩

/-- The byte load of a read-modify-write completes with the store of what it makes of the byte. -/
theorem updateByte_of_loads {s : State} {a : Word} {b : Byte} {f : Byte → Byte} {g : Byte → State → State}
    (h : Loads s a [b]) (hw : Storable s a 1) : updateByte s a f g = done (g b (s.putAt a [f b])) := by
  simp only [updateByte, readByteForUpdate_ok.2 (Or.inl ⟨h, hw⟩), hostTaken_of_loads h rfl, bind, Except.bind,
    writeByte_ok.2 (Or.inl ⟨hw, rfl⟩)]
  rfl

/-- `MemReadUnaligned(a)` where each of the four bytes can be read. -/
theorem readUnaligned_of_readable {s : State} {a v : Word}
    (h : ∀ k < 4, s.mayAccess (a + BitVec.ofNat 32 k) = true ∧ s.readableAt (a + BitVec.ofNat 32 k) = true ∧
      s.holds (a + BitVec.ofNat 32 k) = (longBytes s v)[k]?) :
    readUnaligned s a = .ok v ∧ s.isDevice a = false := by
  have hd : s.isDevice a = false := isDevice_of_readable (by simpa using (h 0 (by omega)).2.1)
  refine ⟨?_, hd⟩
  unfold readUnaligned
  split
  · rename_i ha
    exact readLong_of_loads ⟨by simpa [longBytes] using ha, by simpa using (h 0 (by omega)).1,
      fun k hk => (h k (by simpa [longBytes] using hk)).2⟩
  · simp only [access_bind_ok, checkPrivilege_ok, hd, Bool.false_eq_true, if_false]
    exact ⟨(), by simpa using (h 0 (by omega)).1, (), by simpa using (h 1 (by omega)).1,
      (), by simpa using (h 2 (by omega)).1, (), by simpa using (h 3 (by omega)).1,
      longAt_ok.2 (fun k hk => (h k hk).2)⟩

/-- `MemReadUnaligned(a)` that the host answers, each byte of it being one that may be read. -/
theorem readUnaligned_of_answers {s : State} {a v : Word} (h : ∀ k < 4, s.mayAccess (a + BitVec.ofNat 32 k) = true)
    (hd : s.isDevice a = true) (hr : HostReadable s a 4) (hh : s.host.head? = some (.read a 4 v)) :
    readUnaligned s a = .ok v := by
  unfold readUnaligned
  split
  · rename_i ha
    exact readLong_of_answers ⟨ha, by simpa using h 0 (by omega), hd, hr, hh⟩
  · simp only [access_bind_ok, checkPrivilege_ok]
    exact ⟨(), by simpa using h 0 (by omega), (), h 1 (by omega), (), h 2 (by omega), (), h 3 (by omega),
      hostRead_ok.2 ⟨hr, hh⟩⟩

/-- The check of a byte in no region, where no register is mapped. -/
theorem checkRead_unmapped {s : State} {a : Word} (hc : isControl a = false)
    (hu : regionKind s.params.memMap a = none) : checkRead s a = .error (.fault (.unmapped a)) := by
  simp [checkRead, hc, hu]

theorem checkWrite_unmapped {s : State} {a : Word} (hc : isControl a = false)
    (hu : regionKind s.params.memMap a = none) : checkWrite s a = .error (.fault (.unmapped a)) := by
  simp [checkWrite, hc, hu]

/-- An address in no region is in no device region. -/
theorem isDevice_of_unmapped {s : State} {a : Word} (hu : regionKind s.params.memMap a = none) :
    s.isDevice a = false := by
  simp [State.isDevice, hu]

/-- A longword of memory of which a byte is the first that may not be read stops as the check of that byte does. -/
theorem longAt_error {s : State} {a : Word} {k : Nat} {x : Stop} (hk : k < 4)
    (h : ∀ j < k, s.readableAt (a + BitVec.ofNat 32 j) = true)
    (hx : checkRead s (a + BitVec.ofNat 32 k) = .error x) : longAt s a = .error x := by
  have hc := checkEach_error hk (fun j hj => checkRead_ok.2 (h j hj)) hx
  simp [longAt, hc, bind, Except.bind]

/-- `MemReadUnaligned(a)` of which a byte is the first that may not be read, being in no region, is the fault `unmapped`
there, whether the first byte is memory's or a device's (45_cache_sync.md R355). -/
theorem readUnaligned_unmapped {s : State} {a : Word} {k : Nat}
    (h : ∀ j < 4, s.mayAccess (a + BitVec.ofNat 32 j) = true ∧ isControl (a + BitVec.ofNat 32 j) = false) (hk : k < 4)
    (hj : (∀ j < k, s.readableAt (a + BitVec.ofNat 32 j) = true) ∨ (s.isDevice a = true ∧ HostReadable s a k))
    (hu : regionKind s.params.memMap (a + BitVec.ofNat 32 k) = none) :
    readUnaligned s a = .error (.fault (.unmapped (a + BitVec.ofNat 32 k))) := by
  have hx := checkRead_unmapped (h k hk).2 hu
  have body : (if s.isDevice a then hostRead s a 4 else longAt s a) =
      .error (.fault (.unmapped (a + BitVec.ofNat 32 k))) := by
    rcases hj with hj | ⟨hd, hj⟩
    · have hd : s.isDevice a = false := by
        rcases Nat.eq_zero_or_pos k with rfl | h0
        · exact isDevice_of_unmapped (by simpa using hu)
        · exact isDevice_of_readable (by simpa using hj 0 h0)
      rw [if_neg (by simp [hd])]
      exact longAt_error hk hj hx
    · rw [if_pos hd]
      refine hostRead_error hk (fun j h' => checkHostRead_ok.2 (hj j h')) ?_
      simp [checkHostRead, isDevice_of_unmapped hu, hx]
  have pr (j : Nat) (hj : j < 4) (e : Exc) : checkPrivilege s (a + BitVec.ofNat 32 j) e = .ok () :=
    checkPrivilege_ok.2 (h j hj).1
  have p0 : checkPrivilege s a .dataAddressErrorRead = .ok () := by simpa using pr 0 (by omega) .dataAddressErrorRead
  have p1 : checkPrivilege s (a + 1) .dataAddressErrorRead = .ok () := pr 1 (by omega) _
  have p2 : checkPrivilege s (a + 2) .dataAddressErrorRead = .ok () := pr 2 (by omega) _
  have p3 : checkPrivilege s (a + 3) .dataAddressErrorRead = .ok () := pr 3 (by omega) _
  unfold readUnaligned
  split
  · rename_i ha
    have hc : controlReg a = none := controlReg_none ha (by simpa using (h 0 (by omega)).2)
    unfold readLong
    rw [show checkAligned a 4 .dataAddressErrorRead = .ok () from checkAligned_ok.2 ha]
    simp only [bind, Except.bind, p0, hc]
    exact body
  · simp only [bind, Except.bind, p0, p1, p2, p3]
    exact body

/-! ## The word a fetch reads -/

/-- A fetch that answers gives the word at the pc (20_memory.md R73). -/
theorem fetch_wordAt {s : State} {w : Half} (h : fetch s = .ok w) : wordAt s s.pc = .ok w := by
  unfold fetch at h
  cases hr : s.inRteSlot <;>
    simp only [hr, if_true, if_false, Bool.false_eq_true, access_bind_ok, pure, Except.pure, Except.ok.injEq] at h
  · obtain ⟨_, -, _, -, _, h, _, -, rfl⟩ := h
    exact h
  · obtain ⟨_, -, _, h, _, -, rfl⟩ := h
    exact h

/-- `is_32bit(a)` is the test of the word at `a`, where there is one (42_branch.md R216). -/
theorem is32_of_wordAt {s : State} {a : Word} {w : Half} (h : wordAt s a = .ok w) :
    is32 s a = matchesAny s.params.is32 w := by
  simp [is32, peekHalf, h]

end Sys2Proof.Machine
end

