-- ==== Sys2Proof/Laws/Exec.lean ====
section
/-! SUPPORT. What any instruction can do, said once: the ways `exec` answers a next state (`exec_ends`), and what the
body of an instruction keeps (`Kept`). -/

namespace Sys2Proof.Machine

set_option Elab.async false

/-! ## What the body of an instruction keeps -/

/-- What holds of `u`, which the body of an instruction made of `s` before the pc advances. `wt` and `ws` say whether
the instruction may write T and S. -/
structure Kept (wt ws : Bool) (s u : State) : Prop where
  pc : u.pc = s.pc
  pending : u.pending = s.pending
  params : u.params = s.params
  irq : u.irq = s.irq
  tra : u.tra = s.tra
  expevt : u.expevt = s.expevt
  intevt : u.intevt = s.intevt
  vbr : s.md = false → u.vbr = s.vbr
  ssr : s.md = false → u.ssr = s.ssr
  spc : s.md = false → u.spc = s.spc
  sgr : s.md = false → u.sgr = s.sgr
  dbr : s.md = false → u.dbr = s.dbr
  pteh : s.md = false → u.pteh = s.pteh
  ptel : s.md = false → u.ptel = s.ptel
  mmucr : s.md = false → u.mmucr = s.mmucr
  tlbUser : s.md = false → u.tlb = s.tlb
  bank1 : s.md = false → u.bank1 = s.bank1
  asleep : s.md = false → u.asleep = s.asleep
  srUser : s.md = false → ∀ k, (28 ≤ k ∧ k ≤ 30 ∨ 4 ≤ k ∧ k < 8) → u.sr.getLsbD k = s.sr.getLsbD k
  srReserved : ∀ k, (k = 31 ∨ 13 ≤ k ∧ k < 16) → s.sr.getLsbD k = false → u.sr.getLsbD k = false
  tBit : wt = false → u.tBit = s.tBit
  sBit : ws = false → u.sBit = s.sBit
  memory : s.mem.wf = true → u.mem.wf = true
  userMemory : s.md = false → ∀ a : Word, a.msb = true → u.holds a = s.holds a
  dirty : (s.dirtyCode.Pairwise (· < ·) ∧ ∀ b ∈ s.dirtyCode, b % 32 = 0 ∧ b < 2 ^ 32) →
    u.dirtyCode.Pairwise (· < ·) ∧ ∀ b ∈ u.dirtyCode, b % 32 = 0 ∧ b < 2 ^ 32
  tlb : assocSorted s.tlb = true → assocSorted u.tlb = true
  dsr : s.dsr &&& ~~~0x0000000F#32 = 0 → u.dsr &&& ~~~0x0000000F#32 = 0
  guardBits : (s.a0g = if s.a0.msb then 0xFF#8 else 0x00#8) → u.a0g = if u.a0.msb then 0xFF#8 else 0x00#8
  mmuOff : s.mmucr.getLsbD 0 = false → u.mmucr.getLsbD 0 = false

variable {wt ws : Bool} {s u v t : State}

theorem Kept.refl (s : State) : Kept wt ws s s := by
  constructor <;> intros <;> first | rfl | assumption

theorem Kept.md (h : Kept wt ws s u) (hm : s.md = false) : u.md = false :=
  (h.srUser hm 30 (by omega)).trans hm

theorem Kept.trans (h : Kept wt ws s u) (g : Kept wt ws u v) : Kept wt ws s v where
  pc := g.pc.trans h.pc
  pending := g.pending.trans h.pending
  params := g.params.trans h.params
  irq := g.irq.trans h.irq
  tra := g.tra.trans h.tra
  expevt := g.expevt.trans h.expevt
  intevt := g.intevt.trans h.intevt
  vbr := fun m => (g.vbr (h.md m)).trans (h.vbr m)
  ssr := fun m => (g.ssr (h.md m)).trans (h.ssr m)
  spc := fun m => (g.spc (h.md m)).trans (h.spc m)
  sgr := fun m => (g.sgr (h.md m)).trans (h.sgr m)
  dbr := fun m => (g.dbr (h.md m)).trans (h.dbr m)
  pteh := fun m => (g.pteh (h.md m)).trans (h.pteh m)
  ptel := fun m => (g.ptel (h.md m)).trans (h.ptel m)
  mmucr := fun m => (g.mmucr (h.md m)).trans (h.mmucr m)
  tlbUser := fun m => (g.tlbUser (h.md m)).trans (h.tlbUser m)
  bank1 := fun m => (g.bank1 (h.md m)).trans (h.bank1 m)
  asleep := fun m => (g.asleep (h.md m)).trans (h.asleep m)
  srUser := fun m k hk => (g.srUser (h.md m) k hk).trans (h.srUser m k hk)
  srReserved := fun k hk x => g.srReserved k hk (h.srReserved k hk x)
  tBit := fun w => (g.tBit w).trans (h.tBit w)
  sBit := fun w => (g.sBit w).trans (h.sBit w)
  memory := fun x => g.memory (h.memory x)
  userMemory := fun m a ha => (g.userMemory (h.md m) a ha).trans (h.userMemory m a ha)
  dirty := fun x => g.dirty (h.dirty x)
  tlb := fun x => g.tlb (h.tlb x)
  dsr := fun x => g.dsr (h.dsr x)
  guardBits := fun x => g.guardBits (h.guardBits x)
  mmuOff := fun x => g.mmuOff (h.mmuOff x)

/-- A change of fields that nothing is said of. -/
theorem Kept.of_special (h1 : u.pc = s.pc) (h2 : u.pending = s.pending) (h3 : u.params = s.params) (h4 : u.irq = s.irq)
    (h5 : u.tra = s.tra ∧ u.expevt = s.expevt ∧ u.intevt = s.intevt)
    (h6 : s.md = false → u.vbr = s.vbr ∧ u.ssr = s.ssr ∧ u.spc = s.spc ∧ u.sgr = s.sgr ∧ u.dbr = s.dbr ∧
      u.asleep = s.asleep ∧ u.bank1 = s.bank1)
    (h7 : u.pteh = s.pteh ∧ u.ptel = s.ptel ∧ u.mmucr = s.mmucr ∧ u.tlb = s.tlb) (h8 : u.sr = s.sr)
    (h9 : u.mem = s.mem) (h10 : u.dirtyCode = s.dirtyCode)
    (h11 : s.dsr &&& ~~~0x0000000F#32 = 0 → u.dsr &&& ~~~0x0000000F#32 = 0)
    (h12 : (s.a0g = if s.a0.msb then 0xFF#8 else 0x00#8) → u.a0g = if u.a0.msb then 0xFF#8 else 0x00#8) :
    Kept wt ws s u := by
  obtain ⟨a1, a2, a3⟩ := h5
  obtain ⟨b1, b2, b3, b4⟩ := h7
  constructor <;> intros <;> simp_all [State.tBit, State.sBit, State.holds]

/-- A change of registers that any mode can write. -/
theorem Kept.user (gbr mach macl pr mod rs re x0 x1 y0 y1 : Word) (ldst : Bool) (n : Nat) :
    Kept wt ws s { s with
      gbr := gbr, mach := mach, macl := macl, pr := pr, mod := mod, rs := rs, re := re, x0 := x0, x1 := x1, y0 := y0,
      y1 := y1, ldst := ldst, freeCount := n } := by
  constructor <;> intros <;> first | rfl | assumption

/-- A change of registers that only privileged mode can write. -/
theorem Kept.privileged (hm : s.md = true) (vbr ssr spc sgr dbr : Word) (asleep : Bool) :
    Kept wt ws s { s with vbr := vbr, ssr := ssr, spc := spc, sgr := sgr, dbr := dbr, asleep := asleep } := by
  constructor <;> intros <;> first | rfl | assumption | exact absurd hm (by simp_all)

/-- A host's answer used up is nothing an instruction is held to. -/
theorem Kept.hostTaken (a : Word) : Kept wt ws s (s.hostTaken a) := by
  unfold State.hostTaken
  split
  · constructor <;> intros <;> first | rfl | assumption
  · exact Kept.refl s

theorem Kept.setDsr (w : Word) : Kept wt ws s (s.setDsr w) := by
  refine Kept.of_special (by simp) (by simp) (by simp) (by simp) (by simp) (by simp) (by simp) (by simp) (by simp)
    (by simp) (fun _ => ?_) (fun h => h)
  show (w &&& 0x0000000F#32) &&& ~~~0x0000000F#32 = 0
  rw [BitVec.and_assoc]; simp

theorem Kept.setA0 (w : Word) : Kept wt ws s (s.setA0 w) :=
  Kept.of_special (by simp) (by simp) (by simp) (by simp) (by simp) (by simp) (by simp) (by simp) (by simp)
    (by simp) (by simp) (fun _ => rfl)

/-- A change of SR alone. -/
theorem Kept.of_sr (w : Word) (h1 : s.md = false → ∀ k, (28 ≤ k ∧ k ≤ 30 ∨ 4 ≤ k ∧ k < 8) → w.getLsbD k = s.sr.getLsbD k)
    (h2 : ∀ k, (k = 31 ∨ 13 ≤ k ∧ k < 16) → s.sr.getLsbD k = false → w.getLsbD k = false)
    (h3 : wt = false → w.getLsbD 0 = s.tBit) (h4 : ws = false → w.getLsbD 1 = s.sBit) :
    Kept wt ws s { s with sr := w } := by
  constructor
  case srUser => exact h1
  case srReserved => exact h2
  case tBit => exact h3
  case sBit => exact h4
  all_goals intros; first | rfl | assumption

/-- A change of one bit of SR among 0, 1, 8 to 12. -/
theorem Kept.of_withBit (i : Nat) (b : Bool) (hi : i = 0 ∧ wt = true ∨ i = 1 ∧ ws = true ∨ 2 ≤ i ∧ i < 4 ∨ 8 ≤ i ∧ i ≤ 12) :
    Kept wt ws s { s with sr := withBit s.sr i b } := by
  refine Kept.of_sr _ (fun _ k hk => ?_) (fun k hk h => ?_) (fun h => ?_) (fun h => ?_)
  · rw [getLsbD_withBit _ _ _ _ (by omega), if_neg (by omega)]
  · rw [getLsbD_withBit _ _ _ _ (by omega), if_neg (by omega)]; exact h
  · have : i ≠ 0 := by rintro rfl; simp_all
    rw [getLsbD_withBit _ _ _ _ (by omega), if_neg this]; rfl
  · have : i ≠ 1 := by rintro rfl; simp_all
    rw [getLsbD_withBit _ _ _ _ (by omega), if_neg this]; rfl

theorem Kept.setT (b : Bool) : Kept true ws s (s.setT b) := Kept.of_withBit 0 b (by simp)

theorem Kept.setS (b : Bool) : Kept wt true s (s.setS b) := Kept.of_withBit 1 b (by simp)

theorem Kept.setQ (b : Bool) : Kept wt ws s (s.setQ b) := Kept.of_withBit 8 b (by simp)

theorem Kept.setM (b : Bool) : Kept wt ws s (s.setM b) := Kept.of_withBit 9 b (by simp)

theorem Kept.setDmxDmy (a b : Bool) : Kept wt ws s (s.setDmxDmy a b) :=
  (Kept.of_withBit 10 a (by simp)).trans (Kept.of_withBit 11 b (by simp))

theorem Kept.setR (n : Reg) (w : Word) : Kept wt ws s (s.setR n w) := by
  refine Kept.of_special (by simp) (by simp) (by simp) (by simp) (by simp) (fun hm => ?_) (by simp) (by simp) (by simp)
    (by simp) (by simp) (by simp)
  refine ⟨by simp, by simp, by simp, by simp, by simp, by simp, ?_⟩
  unfold State.setR
  split
  · rfl
  · rw [if_neg (by simp [State.bankSel, hm])]

theorem Kept.setBankR (hm : s.md = true) (b : BankReg) (w : Word) : Kept wt ws s (s.setBankR b w) := by
  refine Kept.of_special (by simp) (by simp) (by simp) (by simp) (by simp) (fun h => ?_) (by simp) (by simp) (by simp)
    (by simp) (by simp) (by simp)
  rw [hm] at h; cases h

/-- The block of an address is a number R89 allows. -/
theorem blockOf_mod (a : Word) : (blockOf a).toNat % 32 = 0 ∧ (blockOf a).toNat < 2 ^ 32 := by
  refine ⟨?_, (blockOf a).isLt⟩
  have h : blockOf a = (a >>> 5) <<< 5 := by
    unfold blockOf
    apply BitVec.eq_of_getLsbD_eq
    intro i hi
    have hc : ∀ j < 32, (0xFFFFFFE0#32).getLsbD j = decide (5 ≤ j) := by decide
    simp only [BitVec.getLsbD_and, BitVec.getLsbD_shiftLeft, BitVec.getLsbD_ushiftRight, hc i hi]
    by_cases h5 : i < 5
    · simp [show ¬ 5 ≤ i by omega, h5]
    · simp [show 5 ≤ i by omega, show ¬ i < 5 by omega, hi, show 5 + (i - 5) = i by omega]
  rw [h, BitVec.toNat_shiftLeft, BitVec.toNat_ushiftRight, Nat.shiftLeft_eq, Nat.shiftRight_eq_div_pow]
  omega

/-- An address lies within its block. -/
theorem sub_blockOf_lt (a : Word) : (a - blockOf a).toNat < 32 := by
  have h : a - blockOf a = a &&& 0x0000001F#32 := by
    have h2 : blockOf a + (a &&& 0x0000001F#32) = a := by
      unfold blockOf
      rw [BitVec.add_eq_or_of_and_eq_zero]
      · apply BitVec.eq_of_getLsbD_eq
        intro i hi
        have hc : ∀ j < 32, ((0xFFFFFFE0#32).getLsbD j || (0x0000001F#32).getLsbD j) = true := by decide
        have := hc i hi
        simp only [BitVec.getLsbD_or, BitVec.getLsbD_and]
        cases a.getLsbD i <;> simp_all
      · rw [show a &&& 0xFFFFFFE0#32 &&& (a &&& 0x0000001F#32) = a &&& a &&& (0xFFFFFFE0#32 &&& 0x0000001F#32) by ac_rfl]
        simp
    bv_omega
  rw [h, BitVec.toNat_and]
  exact Nat.lt_of_le_of_lt Nat.and_le_right (by decide)

/-- Bit 31 is the same within a block. -/
theorem msb_of_block (a n : Word) (h : (a - blockOf n).toNat < 32) : a.msb = n.msb := by
  have hb := (blockOf_mod n).1
  have hm : (blockOf n).msb = n.msb := by
    unfold blockOf; simp [BitVec.msb_eq_getLsbD_last]
  rw [← hm, BitVec.msb_eq_decide, BitVec.msb_eq_decide]
  have h1 := a.isLt
  have h2 := (blockOf n).isLt
  rw [BitVec.toNat_sub] at h
  congr 1
  apply propext
  omega

theorem Kept.markDirty (a : Word) : Kept wt ws s (s.markDirty a) := by
  constructor
  case dirty =>
    rintro ⟨h1, h2⟩
    refine ⟨pairwise_setInsert _ _ h1, fun b hb => ?_⟩
    rcases (mem_setInsert _ _ _).1 hb with rfl | hb
    · exact blockOf_mod a
    · exact h2 b hb
  all_goals intros; first | rfl | assumption

theorem Kept.putAt {a : Word} {bs : List Byte} (hl : bs.length = 1 ∨ bs.length = 2 ∨ bs.length = 4)
    (h : Storable s a bs.length) :
    Kept wt ws s (s.putAt a bs) := by
  refine Kept.trans (u := { s with mem := putBytes s.mem a bs }) ?_ (Kept.markDirty a)
  constructor
  case memory => exact fun h => Memory.wf_putBytes bs _ _ h
  case userMemory =>
    intro hm b hb
    show assocGet _ _ = assocGet _ _
    rw [assocGet_putBytes _ _ _ _ (by omega)]
    split
    · rename_i hlt
      have ha : a.msb = false := by simpa [State.mayAccess, hm] using h.2.1
      have h1 := b.isLt
      have h2 := a.isLt
      have h0 := h.1
      rw [BitVec.msb_eq_decide] at ha hb
      simp only [decide_eq_false_iff_not, decide_eq_true_eq] at ha hb
      rw [BitVec.toNat_sub] at hlt
      exfalso
      rcases hl with hl | hl | hl <;> rw [hl] at hlt h0 <;> omega
    · rfl
  all_goals intros; first | rfl | assumption

/-- In user mode a block that can be accessed holds no register. -/
theorem loseRegister_user {keep : Nat → Bool} {n : Nat} {a c mask v : Word} (h : s.mayAccess a = true)
    (hm : s.md = false) (hc : c.msb = true) : loseRegister keep n (blockOf a) c mask v = v := by
  refine if_neg ?_
  rintro ⟨hb, -⟩
  have h2 : c.msb = a.msb := msb_of_block c a (by rw [← hb]; exact sub_blockOf_lt c)
  rw [h2] at hc
  simp [State.mayAccess, hm, hc] at h

/-- A bit that the mask clears stays clear. -/
theorem loseRegister_bit {keep : Nat → Bool} {n : Nat} {b c v : Word} (h : v.getLsbD 0 = false) :
    (loseRegister keep n b c 0xFFFFFFFE#32 v).getLsbD 0 = false := by
  unfold loseRegister
  split
  · rw [BitVec.getLsbD_and, show (0xFFFFFFFE#32).getLsbD 0 = false from by decide, Bool.and_false]
  · exact h

theorem Kept.loseBlock (a : Word) (keep : Nat → Bool) (h : s.mayAccess a = true) : Kept wt ws s (s.loseBlock a keep) := by
  constructor
  case pteh => exact fun hm => loseRegister_user h hm (by decide)
  case ptel => exact fun hm => loseRegister_user h hm (by decide)
  case mmucr => exact fun hm => loseRegister_user h hm (by decide)
  case mmuOff =>
    exact fun h0 => loseRegister_bit h0
  case memory => exact fun h => Memory.wf_loseBytes _ _ _ _ _ h
  case userMemory =>
    intro hm b hb
    show assocGet _ _ = assocGet _ _
    unfold State.loseBlock
    simp only
    rw [assocGet_loseBytes _ _ _ _ _ _ (by omega), if_neg]
    rintro ⟨hlt, -⟩
    rw [msb_of_block _ _ hlt] at hb
    simp [State.mayAccess, hm, hb] at h
  all_goals intros; first | rfl | assumption

/-! ## How an outcome is reached -/

/-- Every way an instruction at `s` answers a next state: it raises an exception (TRAPA with TRA written first), its
body keeps what `Kept` says and the pc advances, or, off a delay slot, it branches. -/
def Ends (wt ws : Bool) (s : State) (o : Outcome) : Prop :=
  ∀ t, o = .next t →
    (∃ e, raise e s = .next t) ∨
    (∃ i : BitVec 8, s.pending = none ∧ raise .unconditionalTrap { s with tra := zext i <<< 2 } = .next t) ∨
    (∃ u, Kept wt ws s u ∧ t = u.advance) ∨
    (∃ a, s.pending = none ∧ t = { s with pc := a }) ∨
    (∃ a p, s.pending = none ∧ t = { s with pr := p, pc := s.pc + 2, pending := some ⟨s.pc, a, false⟩ }) ∨
    (s.pending = none ∧ s.md = true ∧ wt = true ∧ ws = true ∧ returnFromException s = .next t)

theorem ends_raise (e : Exc) : Ends wt ws s (raise e s) := fun _ h => Or.inl ⟨e, h⟩

theorem ends_done (h : Kept wt ws s u) : Ends wt ws s (done u) := by
  rintro t ht
  cases ht
  exact Or.inr (Or.inr (Or.inl ⟨u, h, rfl⟩))

theorem ends_complete {r : Access State} (h : ∀ u, r = .ok u → Kept wt ws s u) : Ends wt ws s (complete s r) := by
  intro t ht
  rcases complete_next.1 ht with ⟨u, hu, rfl⟩ | ⟨e, -, he⟩
  · exact Or.inr (Or.inr (Or.inl ⟨u, h u hu, rfl⟩))
  · exact Or.inl ⟨e, he⟩

theorem ends_map {α : Type} {r : Access α} {k : α → State} (h : ∀ v, r = .ok v → Kept wt ws s (k v)) :
    Ends wt ws s (complete s (r.map k)) := by
  refine ends_complete fun u hu => ?_
  obtain ⟨v, hv, rfl⟩ := access_map_ok.1 hu
  exact h v hv

theorem ends_loadByte {a : Word} {k : Byte → State} (h : ∀ v, Kept wt ws s (k v)) : Ends wt ws s (loadByte s a k) :=
  ends_map fun v _ => (h v).trans (Kept.hostTaken a)

theorem ends_loadHalf {a : Word} {k : Half → State} (h : ∀ v, Kept wt ws s (k v)) : Ends wt ws s (loadHalf s a k) :=
  ends_map fun v _ => (h v).trans (Kept.hostTaken a)

theorem ends_loadLong {a : Word} {k : Word → State} (h : ∀ v, Kept wt ws s (k v)) : Ends wt ws s (loadLong s a k) :=
  ends_map fun v _ => (h v).trans (Kept.hostTaken a)

theorem ends_loadUnaligned {a : Word} {k : Word → State} (h : ∀ v, Kept wt ws s (k v)) :
    Ends wt ws s (loadUnaligned s a k) := ends_map fun v _ => (h v).trans (Kept.hostTaken a)

/-- A store of a byte, word or longword keeps what `Kept` says. -/
theorem kept_writeByte {a : Word} {v : Byte} (h : writeByte s a v = .ok u) : Kept wt ws s u := by
  rcases writeByte_ok.1 h with ⟨h1, rfl⟩ | ⟨-, rfl⟩
  · exact Kept.putAt (by simp) h1
  · exact (Kept.hostTaken a).trans (Kept.markDirty a)

theorem kept_writeHalf {a : Word} {v : Half} (h : writeHalf s a v = .ok u) : Kept wt ws s u := by
  rcases writeHalf_ok.1 h with ⟨h1, rfl⟩ | ⟨-, rfl⟩
  · exact Kept.putAt (by simp [halfBytes]) h1
  · exact (Kept.hostTaken a).trans (Kept.markDirty a)

theorem kept_writeLong {a v : Word} (h : writeLong s a v = .ok u) : Kept wt ws s u := by
  obtain ⟨-, hm, ⟨c, w, hc, hw, rfl⟩ | ⟨-, rfl⟩ | ⟨h1, rfl⟩⟩ := writeLong_ok h
  · refine Kept.trans ?_ (Kept.markDirty a)
    have hp : s.md = true := by
      have hma : a.msb = true := by
        unfold controlReg at hc
        repeat' split at hc
        all_goals first | (rename_i he; rw [he]; decide) | (cases hc)
      simpa [State.mayAccess, hma] using hm
    rcases controlWrite_ok hw with ⟨-, rfl⟩ | ⟨-, rfl⟩ | ⟨-, hv, rfl⟩
    all_goals constructor
    all_goals intros
    all_goals first
      | rfl
      | assumption
      | exact absurd hp (by simp_all)
  · exact (Kept.hostTaken a).trans (Kept.markDirty a)
  · exact Kept.putAt (by simp [longBytes]) h1

theorem ends_storeByte {a : Word} {v : Byte} {k : State → State} (h : ∀ u, Kept wt ws u (k u)) :
    Ends wt ws s (storeByte s a v k) := ends_map fun u hu => (kept_writeByte hu).trans (h u)

theorem ends_storeHalf {a : Word} {v : Half} {k : State → State} (h : ∀ u, Kept wt ws u (k u)) :
    Ends wt ws s (storeHalf s a v k) := ends_map fun u hu => (kept_writeHalf hu).trans (h u)

theorem ends_storeLong {a v : Word} {k : State → State} (h : ∀ u, Kept wt ws u (k u)) :
    Ends wt ws s (storeLong s a v k) := ends_map fun u hu => (kept_writeLong hu).trans (h u)

theorem ends_popLong {m : Reg} {k : Word → State} (h : ∀ v, Kept wt ws s (k v)) : Ends wt ws s (popLong s m k) :=
  ends_loadLong fun v => (h v).trans (Kept.setR _ _)

theorem ends_pushLong {n : Reg} {v : Word} : Ends wt ws s (pushLong s n v) := ends_storeLong fun _ => Kept.setR _ _

theorem ends_updateByte {a : Word} {f : Byte → Byte} {g : Byte → State → State} (h : ∀ b u, Kept wt ws u (g b u)) :
    Ends wt ws s (updateByte s a f g) := by
  refine ends_complete fun u hu => ?_
  obtain ⟨b, -, hu⟩ := access_bind_ok.1 hu
  obtain ⟨w, hw, hu⟩ := access_bind_ok.1 hu
  cases hu
  exact ((Kept.hostTaken a).trans (kept_writeByte hw)).trans (h b w)

theorem ends_whenPrivileged {k : Outcome} (h : s.md = true → Ends wt ws s k) : Ends wt ws s (whenPrivileged s k) := by
  intro t ht
  rcases whenPrivileged_next.1 ht with ⟨hm, hk⟩ | ⟨-, hr⟩
  · exact h hm t hk
  · obtain ⟨e, -, he⟩ := raiseIllegal_next hr; exact Or.inl ⟨e, he⟩

theorem ends_whenDsp {k : Outcome} (h : Ends wt ws s k) : Ends wt ws s (whenDsp s k) := by
  intro t ht
  rcases whenDsp_next.1 ht with ⟨-, hk⟩ | ⟨-, hr⟩
  · exact h t hk
  · obtain ⟨e, -, he⟩ := raiseIllegal_next hr; exact Or.inl ⟨e, he⟩

theorem ends_whenPrivilegedOrDsp {k : Outcome} (h : Ends wt ws s k) : Ends wt ws s (whenPrivilegedOrDsp s k) := by
  intro t ht
  rcases whenPrivilegedOrDsp_next.1 ht with ⟨-, hk⟩ | ⟨-, hr⟩
  · exact h t hk
  · obtain ⟨e, -, he⟩ := raiseIllegal_next hr; exact Or.inl ⟨e, he⟩

theorem ends_whenNotInSlot {k : Outcome} (h : s.pending = none → Ends wt ws s k) : Ends wt ws s (whenNotInSlot s k) := by
  intro t ht
  rcases whenNotInSlot_next.1 ht with ⟨hp, hk⟩ | ⟨-, hr⟩
  · exact h hp t hk
  · exact Or.inl ⟨_, hr⟩

theorem ends_jumpTo {a : Word} (h : s.pending = none) : Ends wt ws s (jumpTo s a) := by
  rintro t ht
  cases ht
  exact Or.inr (Or.inr (Or.inr (Or.inl ⟨a, h, rfl⟩)))

theorem ends_delayedBranch {a : Word} (h : s.pending = none) : Ends wt ws s (delayedBranch s a) := by
  rintro t ht
  cases ht
  exact Or.inr (Or.inr (Or.inr (Or.inr (Or.inl ⟨a, s.pr, h, rfl⟩))))

theorem ends_linked {a : Word} (h : s.pending = none) : Ends wt ws s (delayedBranch s.linked a) := by
  rintro t ht
  cases ht
  exact Or.inr (Or.inr (Or.inr (Or.inr (Or.inl ⟨a, s.returnAddress, h, rfl⟩))))

/-! ## The instructions whose body is their own -/

theorem Kept.loadInc (m n : Reg) (z w : Word) : Kept wt ws s (s.loadInc m n z w) := by
  unfold State.loadInc
  split
  · exact Kept.setR _ _
  · exact (Kept.setR _ _).trans (Kept.setR _ _)

theorem Kept.macLong (p : Int) : Kept wt ws s (s.macLong p) := by
  unfold State.macLong
  split <;> exact Kept.user _ _ _ _ _ _ _ _ _ _ _ _ _

theorem Kept.macWord (p : Int) : Kept wt ws s (s.macWord p) := by
  unfold State.macWord
  split
  · dsimp only; split <;> exact Kept.user _ _ _ _ _ _ _ _ _ _ _ _ _
  · exact Kept.user _ _ _ _ _ _ _ _ _ _ _ _ _

theorem Kept.loadTlb (hm : s.md = true) : Kept wt ws s s.loadTlb := by
  constructor
  case tlb => exact fun h => assocSorted_assocSet _ _ _ h
  all_goals intros; first | rfl | assumption | exact absurd hm (by simp_all)

theorem kept_useLdtlb (hm : s.md = true) (h : s.useLdtlb = .ok u) : Kept wt ws s u := by
  unfold State.useLdtlb at h
  split at h
  · cases h
  · cases h; exact Kept.loadTlb hm

/-- What SETRC and LDRC do to SR (47_dsp_control.md R418). -/
theorem Kept.setRepeat (c : BitVec 12) (a b : Bool) : Kept wt ws s (s.setRepeat c a b) := by
  refine Kept.trans (u := { s with sr := (s.sr &&& 0xF000FFFF#32) ||| (c.setWidth 32 <<< 16) }) ?_
    ((Kept.of_withBit 3 a (by simp)).trans (Kept.of_withBit 2 b (by simp)))
  have hc : ∀ j < 32, (0xF000FFFF#32).getLsbD j = decide (j < 16 ∨ 28 ≤ j) := by decide
  have key : ∀ k, k < 16 ∨ 28 ≤ k → k < 32 →
      ((s.sr &&& 0xF000FFFF#32) ||| (c.setWidth 32 <<< 16)).getLsbD k = s.sr.getLsbD k := by
    intro k hk hk2
    simp only [BitVec.getLsbD_or, BitVec.getLsbD_and, hc k hk2, BitVec.getLsbD_shiftLeft, BitVec.getLsbD_setWidth, hk2]
    rcases hk with h | h
    · simp [h]
    · simp [h, show ¬ k < 16 by omega, BitVec.getLsbD_of_ge c (k - 16) (by omega)]
  refine Kept.of_sr _ (fun _ k hk => key k (by omega) (by omega)) (fun k hk h => ?_) (fun _ => key 0 (by omega) (by omega))
    (fun _ => key 1 (by omega) (by omega))
  rw [key k (by omega) (by omega)]; exact h

theorem kept_setRepeatCount {c : BitVec 12} (h : setRepeatCount s c = .ok u) : Kept wt ws s u := by
  unfold setRepeatCount at h
  split at h
  · cases h
  · cases h
    exact (Kept.setRepeat c _ _).trans (Kept.user _ _ _ _ _ _ _ _ _ _ _ _ _)

/-- What the LDC forms make of SR (47_dsp_control.md R392). -/
theorem Kept.srLoad (w : Word) : Kept true true s { s with sr := s.srLoad w } := by
  have hr : ∀ k, (k = 31 ∨ 13 ≤ k ∧ k < 16) → (0x7FFF1FFF#32).getLsbD k = false ∧ (0x700003F3#32).getLsbD k = false ∧
      (0x0FFF1C0C#32).getLsbD k = false := by
    intro k hk
    have : k = 31 ∨ k = 13 ∨ k = 14 ∨ k = 15 := by omega
    rcases this with rfl | rfl | rfl | rfl <;> decide
  refine Kept.of_sr _ (fun hm k hk => ?_) (fun k hk h => ?_) (fun h => by cases h) (fun h => by cases h)
  · have : k = 28 ∨ k = 29 ∨ k = 30 ∨ k = 4 ∨ k = 5 ∨ k = 6 ∨ k = 7 := by omega
    simp only [State.srLoad, hm, Bool.false_eq_true, if_false, srUserDspWrite, BitVec.getLsbD_or, BitVec.getLsbD_and]
    rcases this with rfl | rfl | rfl | rfl | rfl | rfl | rfl <;> simp
  · obtain ⟨h1, h2, h3⟩ := hr k hk
    unfold State.srLoad srPrivilegedWrite srMask srUserDspWrite
    split <;> simp only [BitVec.getLsbD_or, BitVec.getLsbD_and, h1, h2, h3, Bool.and_false, Bool.or_false]

theorem checkBlock_mayAccess {a : Word} {b : Bool} {e : Exc} {x : Unit} (h : checkBlock s a b e = .ok x) :
    s.mayAccess a = true := by
  unfold checkBlock at h
  obtain ⟨_, h1, _⟩ := access_bind_ok.1 h
  exact checkPrivilege_ok.1 h1

/-- MAC.L and MAC.W (40_arithmetic.md R165, R166). -/
theorem ends_macL (m n : Reg) : Ends wt ws s (execMacL m n s) := by
  refine ends_complete fun u hu => ?_
  obtain ⟨vn, -, hu⟩ := access_bind_ok.1 hu
  obtain ⟨vm, -, hu⟩ := access_bind_ok.1 hu
  cases hu
  exact ((((Kept.setR _ _).trans (Kept.hostTaken _)).trans (Kept.setR _ _)).trans (Kept.macLong _)).trans
    (Kept.hostTaken _)

theorem ends_macW (m n : Reg) : Ends wt ws s (execMacW m n s) := by
  refine ends_complete fun u hu => ?_
  obtain ⟨vn, -, hu⟩ := access_bind_ok.1 hu
  obtain ⟨vm, -, hu⟩ := access_bind_ok.1 hu
  cases hu
  exact ((((Kept.setR _ _).trans (Kept.hostTaken _)).trans (Kept.setR _ _)).trans (Kept.macWord _)).trans
    (Kept.hostTaken _)

theorem ends_bf (d : BitVec 8) : Ends wt ws s (execBf d s) := by
  refine ends_whenNotInSlot fun hp => ?_
  split
  · exact ends_done (Kept.refl s)
  · exact ends_jumpTo hp

theorem ends_bt (d : BitVec 8) : Ends wt ws s (execBt d s) := by
  refine ends_whenNotInSlot fun hp => ?_
  split
  · exact ends_jumpTo hp
  · exact ends_done (Kept.refl s)

theorem ends_trapa (i : BitVec 8) : Ends wt ws s (execTrapa i s) :=
  ends_whenNotInSlot fun hp _ ht => Or.inr (Or.inl ⟨i, hp, ht⟩)

theorem ends_rte : Ends true true s (execRte s) :=
  ends_whenNotInSlot fun hp => ends_whenPrivileged fun hm _ ht =>
    Or.inr (Or.inr (Or.inr (Or.inr (Or.inr ⟨hp, hm, rfl, rfl, ht⟩))))

theorem ends_icbi (n : Reg) : Ends wt ws s (execIcbi n s) := by
  refine ends_whenNotInSlot fun _ => ends_complete fun u hu => ?_
  obtain ⟨-, -, hu⟩ := access_bind_ok.1 hu
  cases hu
  constructor
  case dirty =>
    rintro ⟨h1, h2⟩
    exact ⟨pairwise_setErase _ _ h1, fun b hb => h2 b ((mem_setErase _ _ _).1 hb).1⟩
  all_goals intros; first | rfl | assumption

theorem ends_movcaL (n : Reg) : Ends wt ws s (execMovcaL n s) := by
  refine ends_map fun u hu => ?_
  have hk : Kept true true s u := kept_writeLong hu
  have hm := (writeLong_ok hu).2.1
  refine (kept_writeLong hu).trans (Kept.loseBlock _ _ ?_)
  cases hs : s.md
  · simpa [State.mayAccess, hs, hk.md hs] using hm
  · have : u.sr = s.sr := by
      obtain ⟨-, -, ⟨c, w, hc, hw, rfl⟩ | ⟨-, rfl⟩ | ⟨h1, rfl⟩⟩ := writeLong_ok hu
      · rcases controlWrite_ok hw with ⟨-, rfl⟩ | ⟨-, rfl⟩ | ⟨-, hv, rfl⟩ <;> rfl
      · simp
      · simp
    simpa [State.mayAccess, State.md, this] using hm

theorem ends_movcoL (n : Reg) : Ends true ws s (execMovcoL n s) := by
  unfold execMovcoL
  split
  · exact ends_storeLong fun u => (Kept.setT true).trans (Kept.user _ _ _ _ _ _ _ _ _ _ _ _ _)
  · exact ends_done ((Kept.setT false).trans (Kept.user _ _ _ _ _ _ _ _ _ _ _ _ _))

theorem ends_ocbi (n : Reg) : Ends wt ws s (execOcbi n s) := by
  refine ends_complete fun u hu => ?_
  obtain ⟨_, h1, hu⟩ := access_bind_ok.1 hu
  cases hu
  exact (Kept.loseBlock _ _ (checkBlock_mayAccess h1)).trans (Kept.markDirty _)

theorem ends_ocbp (n : Reg) : Ends wt ws s (execOcbp n s) := by
  refine ends_complete fun u hu => ?_
  obtain ⟨-, -, hu⟩ := access_bind_ok.1 hu
  cases hu
  exact Kept.refl s

theorem ends_ocbwb (n : Reg) : Ends wt ws s (execOcbwb n s) := by
  refine ends_complete fun u hu => ?_
  obtain ⟨-, -, hu⟩ := access_bind_ok.1 hu
  cases hu
  exact Kept.refl s

theorem ends_ldcLSr (m : Reg) : Ends true true s (execLdcLSr m s) := by
  refine ends_whenNotInSlot fun _ => ends_whenPrivilegedOrDsp (ends_complete fun u hu => ?_)
  obtain ⟨v, -, hu⟩ := access_bind_ok.1 hu
  dsimp only at hu
  split at hu
  · cases hu
  · cases hu
    exact ((Kept.srLoad v).trans (Kept.setR _ _)).trans (Kept.hostTaken _)

/-- The ways an instruction answers a next state, for every instruction. -/
theorem exec_ends (i : Instr) (s : State) : Ends (writesT i) (writesS i) s (exec i s) := by
  cases i with
  | add _ _ => exact ends_done (Kept.setR _ _)
  | addImm _ _ => exact ends_done (Kept.setR _ _)
  | addc _ _ => exact ends_done ((Kept.setR _ _).trans (Kept.setT _))
  | addv _ _ => exact ends_done ((Kept.setR _ _).trans (Kept.setT _))
  | cmpEq _ _ => exact ends_done (Kept.setT _)
  | cmpGe _ _ => exact ends_done (Kept.setT _)
  | cmpGt _ _ => exact ends_done (Kept.setT _)
  | cmpHi _ _ => exact ends_done (Kept.setT _)
  | cmpHs _ _ => exact ends_done (Kept.setT _)
  | cmpPl _ => exact ends_done (Kept.setT _)
  | cmpPz _ => exact ends_done (Kept.setT _)
  | cmpStr _ _ => exact ends_done (Kept.setT _)
  | cmpEqImm _ => exact ends_done (Kept.setT _)
  | div0s _ _ => exact ends_done (((Kept.setQ _).trans (Kept.setM _)).trans (Kept.setT _))
  | div0u => exact ends_done (((Kept.setM _).trans (Kept.setQ _)).trans (Kept.setT _))
  | div1 _ _ => exact ends_done (((Kept.setR _ _).trans (Kept.setQ _)).trans (Kept.setT _))
  | dmulsL _ _ => exact ends_done (Kept.user _ _ _ _ _ _ _ _ _ _ _ _ _)
  | dmuluL _ _ => exact ends_done (Kept.user _ _ _ _ _ _ _ _ _ _ _ _ _)
  | dt _ => exact ends_done ((Kept.setR _ _).trans (Kept.setT _))
  | extsB _ _ => exact ends_done (Kept.setR _ _)
  | extsW _ _ => exact ends_done (Kept.setR _ _)
  | extuB _ _ => exact ends_done (Kept.setR _ _)
  | extuW _ _ => exact ends_done (Kept.setR _ _)
  | macL m n => exact ends_macL m n
  | macW m n => exact ends_macW m n
  | mulL _ _ => exact ends_done (Kept.user _ _ _ _ _ _ _ _ _ _ _ _ _)
  | mulsW _ _ => exact ends_done (Kept.user _ _ _ _ _ _ _ _ _ _ _ _ _)
  | muluW _ _ => exact ends_done (Kept.user _ _ _ _ _ _ _ _ _ _ _ _ _)
  | neg _ _ => exact ends_done (Kept.setR _ _)
  | negc _ _ => exact ends_done ((Kept.setR _ _).trans (Kept.setT _))
  | sub _ _ => exact ends_done (Kept.setR _ _)
  | subc _ _ => exact ends_done ((Kept.setR _ _).trans (Kept.setT _))
  | subv _ _ => exact ends_done ((Kept.setR _ _).trans (Kept.setT _))
  | andReg _ _ => exact ends_done (Kept.setR _ _)
  | andImm _ => exact ends_done (Kept.setR _ _)
  | andB _ => exact ends_updateByte fun _ _ => Kept.refl _
  | notReg _ _ => exact ends_done (Kept.setR _ _)
  | orReg _ _ => exact ends_done (Kept.setR _ _)
  | orImm _ => exact ends_done (Kept.setR _ _)
  | orB _ => exact ends_updateByte fun _ _ => Kept.refl _
  | tasB _ => exact ends_updateByte fun _ _ => Kept.setT _
  | tstReg _ _ => exact ends_done (Kept.setT _)
  | tstImm _ => exact ends_done (Kept.setT _)
  | tstB _ => exact ends_map fun _ _ => (Kept.setT _).trans (Kept.hostTaken _)
  | xorReg _ _ => exact ends_done (Kept.setR _ _)
  | xorImm _ => exact ends_done (Kept.setR _ _)
  | xorB _ => exact ends_updateByte fun _ _ => Kept.refl _
  | bf d => exact ends_bf d
  | bfS _ => exact ends_whenNotInSlot fun hp => ends_delayedBranch hp
  | bra _ => exact ends_whenNotInSlot fun hp => ends_delayedBranch hp
  | braf _ => exact ends_whenNotInSlot fun hp => ends_delayedBranch hp
  | bt d => exact ends_bt d
  | btS _ => exact ends_whenNotInSlot fun hp => ends_delayedBranch hp
  | jmp _ => exact ends_whenNotInSlot fun hp => ends_delayedBranch hp
  | rts => exact ends_whenNotInSlot fun hp => ends_delayedBranch hp
  | bsr _ => exact ends_whenNotInSlot fun hp => ends_linked hp
  | bsrf _ => exact ends_whenNotInSlot fun hp => ends_linked hp
  | jsr _ => exact ends_whenNotInSlot fun hp => ends_linked hp
  | clrmac => exact ends_done (Kept.user _ _ _ _ _ _ _ _ _ _ _ _ _)
  | clrs => exact ends_done (Kept.setS _)
  | clrt => exact ends_done (Kept.setT _)
  | ldcGbr _ => exact ends_done (Kept.user _ _ _ _ _ _ _ _ _ _ _ _ _)
  | ldcVbr _ => exact ends_whenPrivileged fun hm => ends_done (Kept.privileged hm _ _ _ _ _ _)
  | ldcSgr _ => exact ends_whenPrivileged fun hm => ends_done (Kept.privileged hm _ _ _ _ _ _)
  | ldcSsr _ => exact ends_whenPrivileged fun hm => ends_done (Kept.privileged hm _ _ _ _ _ _)
  | ldcSpc _ => exact ends_whenPrivileged fun hm => ends_done (Kept.privileged hm _ _ _ _ _ _)
  | ldcDbr _ => exact ends_whenPrivileged fun hm => ends_done (Kept.privileged hm _ _ _ _ _ _)
  | ldcBank _ _ => exact ends_whenPrivileged fun hm => ends_done (Kept.setBankR hm _ _)
  | ldcLGbr _ => exact ends_popLong fun _ => Kept.user _ _ _ _ _ _ _ _ _ _ _ _ _
  | ldcLVbr _ => exact ends_whenPrivileged fun hm => ends_popLong fun _ => Kept.privileged hm _ _ _ _ _ _
  | ldcLSgr _ => exact ends_whenPrivileged fun hm => ends_popLong fun _ => Kept.privileged hm _ _ _ _ _ _
  | ldcLSsr _ => exact ends_whenPrivileged fun hm => ends_popLong fun _ => Kept.privileged hm _ _ _ _ _ _
  | ldcLSpc _ => exact ends_whenPrivileged fun hm => ends_popLong fun _ => Kept.privileged hm _ _ _ _ _ _
  | ldcLDbr _ => exact ends_whenPrivileged fun hm => ends_popLong fun _ => Kept.privileged hm _ _ _ _ _ _
  | ldcLBank _ _ => exact ends_whenPrivileged fun hm => ends_popLong fun _ => Kept.setBankR hm _ _
  | ldsMach _ => exact ends_done (Kept.user _ _ _ _ _ _ _ _ _ _ _ _ _)
  | ldsMacl _ => exact ends_done (Kept.user _ _ _ _ _ _ _ _ _ _ _ _ _)
  | ldsPr _ => exact ends_done (Kept.user _ _ _ _ _ _ _ _ _ _ _ _ _)
  | ldsLMach _ => exact ends_popLong fun _ => Kept.user _ _ _ _ _ _ _ _ _ _ _ _ _
  | ldsLMacl _ => exact ends_popLong fun _ => Kept.user _ _ _ _ _ _ _ _ _ _ _ _ _
  | ldsLPr _ => exact ends_popLong fun _ => Kept.user _ _ _ _ _ _ _ _ _ _ _ _ _
  | ldtlb => exact ends_whenPrivileged fun hm => ends_complete fun _ h => kept_useLdtlb hm h
  | nop => exact ends_done (Kept.refl s)
  | rte => exact ends_rte
  | sets => exact ends_done (Kept.setS _)
  | sett => exact ends_done (Kept.setT _)
  | sleep => exact ends_whenPrivileged fun hm => ends_done (Kept.privileged hm _ _ _ _ _ _)
  | stcGbr _ => exact ends_done (Kept.setR _ _)
  | stcVbr _ => exact ends_whenPrivileged fun hm => ends_done (Kept.setR _ _)
  | stcSsr _ => exact ends_whenPrivileged fun hm => ends_done (Kept.setR _ _)
  | stcSpc _ => exact ends_whenPrivileged fun hm => ends_done (Kept.setR _ _)
  | stcSgr _ => exact ends_whenPrivileged fun hm => ends_done (Kept.setR _ _)
  | stcDbr _ => exact ends_whenPrivileged fun hm => ends_done (Kept.setR _ _)
  | stcBank _ _ => exact ends_whenPrivileged fun hm => ends_done (Kept.setR _ _)
  | stcLGbr _ => exact ends_pushLong
  | stcLVbr _ => exact ends_whenPrivileged fun hm => ends_pushLong
  | stcLSsr _ => exact ends_whenPrivileged fun hm => ends_pushLong
  | stcLSpc _ => exact ends_whenPrivileged fun hm => ends_pushLong
  | stcLSgr _ => exact ends_whenPrivileged fun hm => ends_pushLong
  | stcLDbr _ => exact ends_whenPrivileged fun hm => ends_pushLong
  | stcLBank _ _ => exact ends_whenPrivileged fun hm => ends_pushLong
  | stsMach _ => exact ends_done (Kept.setR _ _)
  | stsMacl _ => exact ends_done (Kept.setR _ _)
  | stsPr _ => exact ends_done (Kept.setR _ _)
  | stsLMach _ => exact ends_pushLong
  | stsLMacl _ => exact ends_pushLong
  | stsLPr _ => exact ends_pushLong
  | trapa i => exact ends_trapa i
  | mov _ _ => exact ends_done (Kept.setR _ _)
  | movBStore _ _ => exact ends_storeByte fun _ => Kept.refl _
  | movWStore _ _ => exact ends_storeHalf fun _ => Kept.refl _
  | movLStore _ _ => exact ends_storeLong fun _ => Kept.refl _
  | movBLoad _ _ => exact ends_loadByte fun _ => Kept.setR _ _
  | movWLoad _ _ => exact ends_loadHalf fun _ => Kept.setR _ _
  | movLLoad _ _ => exact ends_loadLong fun _ => Kept.setR _ _
  | movBStoreDec _ _ => exact ends_storeByte fun _ => Kept.setR _ _
  | movWStoreDec _ _ => exact ends_storeHalf fun _ => Kept.setR _ _
  | movLStoreDec _ _ => exact ends_storeLong fun _ => Kept.setR _ _
  | movBLoadInc _ _ => exact ends_loadByte fun _ => Kept.loadInc _ _ _ _
  | movWLoadInc _ _ => exact ends_loadHalf fun _ => Kept.loadInc _ _ _ _
  | movLLoadInc _ _ => exact ends_loadLong fun _ => Kept.loadInc _ _ _ _
  | movBStoreIdx _ _ => exact ends_storeByte fun _ => Kept.refl _
  | movWStoreIdx _ _ => exact ends_storeHalf fun _ => Kept.refl _
  | movLStoreIdx _ _ => exact ends_storeLong fun _ => Kept.refl _
  | movBLoadIdx _ _ => exact ends_loadByte fun _ => Kept.setR _ _
  | movWLoadIdx _ _ => exact ends_loadHalf fun _ => Kept.setR _ _
  | movLLoadIdx _ _ => exact ends_loadLong fun _ => Kept.setR _ _
  | movImm _ _ => exact ends_done (Kept.setR _ _)
  | movWLoadPc _ _ => exact ends_whenNotInSlot fun hp => ends_loadHalf fun _ => Kept.setR _ _
  | movLLoadPc _ _ => exact ends_whenNotInSlot fun hp => ends_loadLong fun _ => Kept.setR _ _
  | movBLoadGbr _ => exact ends_loadByte fun _ => Kept.setR _ _
  | movWLoadGbr _ => exact ends_loadHalf fun _ => Kept.setR _ _
  | movLLoadGbr _ => exact ends_loadLong fun _ => Kept.setR _ _
  | movBStoreGbr _ => exact ends_storeByte fun _ => Kept.refl _
  | movWStoreGbr _ => exact ends_storeHalf fun _ => Kept.refl _
  | movLStoreGbr _ => exact ends_storeLong fun _ => Kept.refl _
  | movBStoreDisp _ _ => exact ends_storeByte fun _ => Kept.refl _
  | movWStoreDisp _ _ => exact ends_storeHalf fun _ => Kept.refl _
  | movLStoreDisp _ _ _ => exact ends_storeLong fun _ => Kept.refl _
  | movBLoadDisp _ _ => exact ends_loadByte fun _ => Kept.setR _ _
  | movWLoadDisp _ _ => exact ends_loadHalf fun _ => Kept.setR _ _
  | movLLoadDisp _ _ _ => exact ends_loadLong fun _ => Kept.setR _ _
  | mova _ => exact ends_whenNotInSlot fun hp => ends_done (Kept.setR _ _)
  | movt _ => exact ends_done (Kept.setR _ _)
  | swapB _ _ => exact ends_done (Kept.setR _ _)
  | swapW _ _ => exact ends_done (Kept.setR _ _)
  | xtrct _ _ => exact ends_done (Kept.setR _ _)
  | icbi n => exact ends_icbi n
  | movcaL n => exact ends_movcaL n
  | movcoL n => exact ends_movcoL n
  | movliL _ => exact ends_loadLong fun _ => (Kept.setR _ _).trans (Kept.user _ _ _ _ _ _ _ _ _ _ _ _ _)
  | movuaL _ => exact ends_loadUnaligned fun _ => Kept.setR _ _
  | movuaLInc _ => exact ends_loadUnaligned fun _ => Kept.loadInc _ _ _ _
  | ocbi n => exact ends_ocbi n
  | ocbp n => exact ends_ocbp n
  | ocbwb n => exact ends_ocbwb n
  | pref _ => exact ends_done (Kept.refl s)
  | prefi _ => exact ends_whenNotInSlot fun hp => ends_done (Kept.refl s)
  | synco => exact ends_done (Kept.refl s)
  | rotcl _ => exact ends_done ((Kept.setR _ _).trans (Kept.setT _))
  | rotcr _ => exact ends_done ((Kept.setR _ _).trans (Kept.setT _))
  | rotl _ => exact ends_done ((Kept.setR _ _).trans (Kept.setT _))
  | rotr _ => exact ends_done ((Kept.setR _ _).trans (Kept.setT _))
  | shad _ _ => exact ends_done (Kept.setR _ _)
  | shal _ => exact ends_done ((Kept.setR _ _).trans (Kept.setT _))
  | shar _ => exact ends_done ((Kept.setR _ _).trans (Kept.setT _))
  | shld _ _ => exact ends_done (Kept.setR _ _)
  | shll _ => exact ends_done ((Kept.setR _ _).trans (Kept.setT _))
  | shll2 _ => exact ends_done (Kept.setR _ _)
  | shll8 _ => exact ends_done (Kept.setR _ _)
  | shll16 _ => exact ends_done (Kept.setR _ _)
  | shlr _ => exact ends_done ((Kept.setR _ _).trans (Kept.setT _))
  | shlr2 _ => exact ends_done (Kept.setR _ _)
  | shlr8 _ => exact ends_done (Kept.setR _ _)
  | shlr16 _ => exact ends_done (Kept.setR _ _)
  | clrdmxy => exact ends_whenDsp (ends_done (Kept.setDmxDmy _ _))
  | ldcSr _ => exact ends_whenNotInSlot fun _ => ends_whenPrivilegedOrDsp (ends_done (Kept.srLoad _))
  | ldcMod _ => exact ends_whenDsp (ends_done (Kept.user _ _ _ _ _ _ _ _ _ _ _ _ _))
  | ldcRe _ => exact ends_whenDsp (ends_done (Kept.user _ _ _ _ _ _ _ _ _ _ _ _ _))
  | ldcRs _ => exact ends_whenDsp (ends_done (Kept.user _ _ _ _ _ _ _ _ _ _ _ _ _))
  | ldcLSr m => exact ends_ldcLSr m
  | ldcLMod _ => exact ends_whenDsp (ends_popLong fun _ => Kept.user _ _ _ _ _ _ _ _ _ _ _ _ _)
  | ldcLRe _ => exact ends_whenDsp (ends_popLong fun _ => Kept.user _ _ _ _ _ _ _ _ _ _ _ _ _)
  | ldcLRs _ => exact ends_whenDsp (ends_popLong fun _ => Kept.user _ _ _ _ _ _ _ _ _ _ _ _ _)
  | ldrc _ => exact ends_whenDsp (ends_map fun _ h => (kept_setRepeatCount h).trans (Kept.user _ _ _ _ _ _ _ _ _ _ _ _ _))
  | ldrcImm _ => exact ends_whenDsp (ends_map fun _ h => (kept_setRepeatCount h).trans (Kept.user _ _ _ _ _ _ _ _ _ _ _ _ _))
  | ldre _ => exact ends_whenNotInSlot fun hp => ends_whenDsp (ends_done (Kept.user _ _ _ _ _ _ _ _ _ _ _ _ _))
  | ldsDsr _ => exact ends_whenDsp (ends_done (Kept.setDsr _))
  | ldsA0 _ => exact ends_whenDsp (ends_done (Kept.setA0 _))
  | ldsX0 _ => exact ends_whenDsp (ends_done (Kept.user _ _ _ _ _ _ _ _ _ _ _ _ _))
  | ldsX1 _ => exact ends_whenDsp (ends_done (Kept.user _ _ _ _ _ _ _ _ _ _ _ _ _))
  | ldsY0 _ => exact ends_whenDsp (ends_done (Kept.user _ _ _ _ _ _ _ _ _ _ _ _ _))
  | ldsY1 _ => exact ends_whenDsp (ends_done (Kept.user _ _ _ _ _ _ _ _ _ _ _ _ _))
  | ldsLDsr _ => exact ends_whenDsp (ends_popLong fun _ => Kept.setDsr _)
  | ldsLA0 _ => exact ends_whenDsp (ends_popLong fun _ => Kept.setA0 _)
  | ldsLX0 _ => exact ends_whenDsp (ends_popLong fun _ => Kept.user _ _ _ _ _ _ _ _ _ _ _ _ _)
  | ldsLX1 _ => exact ends_whenDsp (ends_popLong fun _ => Kept.user _ _ _ _ _ _ _ _ _ _ _ _ _)
  | ldsLY0 _ => exact ends_whenDsp (ends_popLong fun _ => Kept.user _ _ _ _ _ _ _ _ _ _ _ _ _)
  | ldsLY1 _ => exact ends_whenDsp (ends_popLong fun _ => Kept.user _ _ _ _ _ _ _ _ _ _ _ _ _)
  | ldrs _ => exact ends_whenNotInSlot fun hp => ends_whenDsp (ends_done (Kept.user _ _ _ _ _ _ _ _ _ _ _ _ _))
  | setdmx => exact ends_whenDsp (ends_done (Kept.setDmxDmy _ _))
  | setdmy => exact ends_whenDsp (ends_done (Kept.setDmxDmy _ _))
  | setrc _ => exact ends_whenDsp (ends_complete fun _ h => kept_setRepeatCount h)
  | setrcImm _ => exact ends_whenDsp (ends_complete fun _ h => kept_setRepeatCount h)
  | stcSr _ => exact ends_whenPrivilegedOrDsp (ends_done (Kept.setR _ _))
  | stcMod _ => exact ends_whenDsp (ends_done (Kept.setR _ _))
  | stcRe _ => exact ends_whenDsp (ends_done (Kept.setR _ _))
  | stcRs _ => exact ends_whenDsp (ends_done (Kept.setR _ _))
  | stcLSr _ => exact ends_whenPrivilegedOrDsp (ends_pushLong)
  | stcLMod _ => exact ends_whenDsp (ends_pushLong)
  | stcLRe _ => exact ends_whenDsp (ends_pushLong)
  | stcLRs _ => exact ends_whenDsp (ends_pushLong)
  | stsDsr _ => exact ends_whenDsp (ends_done (Kept.setR _ _))
  | stsA0 _ => exact ends_whenDsp (ends_done (Kept.setR _ _))
  | stsX0 _ => exact ends_whenDsp (ends_done (Kept.setR _ _))
  | stsX1 _ => exact ends_whenDsp (ends_done (Kept.setR _ _))
  | stsY0 _ => exact ends_whenDsp (ends_done (Kept.setR _ _))
  | stsY1 _ => exact ends_whenDsp (ends_done (Kept.setR _ _))
  | stsLDsr _ => exact ends_whenDsp (ends_pushLong)
  | stsLA0 _ => exact ends_whenDsp (ends_pushLong)
  | stsLX0 _ => exact ends_whenDsp (ends_pushLong)
  | stsLX1 _ => exact ends_whenDsp (ends_pushLong)
  | stsLY0 _ => exact ends_whenDsp (ends_pushLong)
  | stsLY1 _ => exact ends_whenDsp (ends_pushLong)

end Sys2Proof.Machine
end

