-- ==== Sys2Proof/Laws/PerInstr.lean ====
section
/-! SUPPORT. Statements about every instruction, one lemma per constructor: no instruction's word lies in the DSP unit's
space (30_encoding.md R122). -/

namespace Sys2Proof.Laws.NotDspSpace

set_option Elab.async false

/-- The top four bits of the instruction's word are not 1111. -/
def Statement (i : Instr) : Prop := nib3 (encode i) ≠ 0xF#4

theorem add (m : Reg) (n : Reg) : Statement (.add m n) := by simp [Statement, encode]
theorem addImm (i : BitVec 8) (n : Reg) : Statement (.addImm i n) := by simp [Statement, encode]
theorem addc (m : Reg) (n : Reg) : Statement (.addc m n) := by simp [Statement, encode]
theorem addv (m : Reg) (n : Reg) : Statement (.addv m n) := by simp [Statement, encode]
theorem cmpEq (m : Reg) (n : Reg) : Statement (.cmpEq m n) := by simp [Statement, encode]
theorem cmpGe (m : Reg) (n : Reg) : Statement (.cmpGe m n) := by simp [Statement, encode]
theorem cmpGt (m : Reg) (n : Reg) : Statement (.cmpGt m n) := by simp [Statement, encode]
theorem cmpHi (m : Reg) (n : Reg) : Statement (.cmpHi m n) := by simp [Statement, encode]
theorem cmpHs (m : Reg) (n : Reg) : Statement (.cmpHs m n) := by simp [Statement, encode]
theorem cmpPl (n : Reg) : Statement (.cmpPl n) := by simp [Statement, encode]
theorem cmpPz (n : Reg) : Statement (.cmpPz n) := by simp [Statement, encode]
theorem cmpStr (m : Reg) (n : Reg) : Statement (.cmpStr m n) := by simp [Statement, encode]
theorem cmpEqImm (i : BitVec 8) : Statement (.cmpEqImm i) := by simp [Statement, encode]
theorem div0s (m : Reg) (n : Reg) : Statement (.div0s m n) := by simp [Statement, encode]
theorem div0u : Statement (.div0u) := by simp [Statement, encode]
theorem div1 (m : Reg) (n : Reg) : Statement (.div1 m n) := by simp [Statement, encode]
theorem dmulsL (m : Reg) (n : Reg) : Statement (.dmulsL m n) := by simp [Statement, encode]
theorem dmuluL (m : Reg) (n : Reg) : Statement (.dmuluL m n) := by simp [Statement, encode]
theorem dt (n : Reg) : Statement (.dt n) := by simp [Statement, encode]
theorem extsB (m : Reg) (n : Reg) : Statement (.extsB m n) := by simp [Statement, encode]
theorem extsW (m : Reg) (n : Reg) : Statement (.extsW m n) := by simp [Statement, encode]
theorem extuB (m : Reg) (n : Reg) : Statement (.extuB m n) := by simp [Statement, encode]
theorem extuW (m : Reg) (n : Reg) : Statement (.extuW m n) := by simp [Statement, encode]
theorem macL (m : Reg) (n : Reg) : Statement (.macL m n) := by simp [Statement, encode]
theorem macW (m : Reg) (n : Reg) : Statement (.macW m n) := by simp [Statement, encode]
theorem mulL (m : Reg) (n : Reg) : Statement (.mulL m n) := by simp [Statement, encode]
theorem mulsW (m : Reg) (n : Reg) : Statement (.mulsW m n) := by simp [Statement, encode]
theorem muluW (m : Reg) (n : Reg) : Statement (.muluW m n) := by simp [Statement, encode]
theorem neg (m : Reg) (n : Reg) : Statement (.neg m n) := by simp [Statement, encode]
theorem negc (m : Reg) (n : Reg) : Statement (.negc m n) := by simp [Statement, encode]
theorem sub (m : Reg) (n : Reg) : Statement (.sub m n) := by simp [Statement, encode]
theorem subc (m : Reg) (n : Reg) : Statement (.subc m n) := by simp [Statement, encode]
theorem subv (m : Reg) (n : Reg) : Statement (.subv m n) := by simp [Statement, encode]
theorem andReg (m : Reg) (n : Reg) : Statement (.andReg m n) := by simp [Statement, encode]
theorem andImm (i : BitVec 8) : Statement (.andImm i) := by simp [Statement, encode]
theorem andB (i : BitVec 8) : Statement (.andB i) := by simp [Statement, encode]
theorem notReg (m : Reg) (n : Reg) : Statement (.notReg m n) := by simp [Statement, encode]
theorem orReg (m : Reg) (n : Reg) : Statement (.orReg m n) := by simp [Statement, encode]
theorem orImm (i : BitVec 8) : Statement (.orImm i) := by simp [Statement, encode]
theorem orB (i : BitVec 8) : Statement (.orB i) := by simp [Statement, encode]
theorem tasB (n : Reg) : Statement (.tasB n) := by simp [Statement, encode]
theorem tstReg (m : Reg) (n : Reg) : Statement (.tstReg m n) := by simp [Statement, encode]
theorem tstImm (i : BitVec 8) : Statement (.tstImm i) := by simp [Statement, encode]
theorem tstB (i : BitVec 8) : Statement (.tstB i) := by simp [Statement, encode]
theorem xorReg (m : Reg) (n : Reg) : Statement (.xorReg m n) := by simp [Statement, encode]
theorem xorImm (i : BitVec 8) : Statement (.xorImm i) := by simp [Statement, encode]
theorem xorB (i : BitVec 8) : Statement (.xorB i) := by simp [Statement, encode]
theorem bf (d : BitVec 8) : Statement (.bf d) := by simp [Statement, encode]
theorem bfS (d : BitVec 8) : Statement (.bfS d) := by simp [Statement, encode]
theorem bra (d : BitVec 12) : Statement (.bra d) := by simp [Statement, encode]
theorem braf (n : Reg) : Statement (.braf n) := by simp [Statement, encode]
theorem bt (d : BitVec 8) : Statement (.bt d) := by simp [Statement, encode]
theorem btS (d : BitVec 8) : Statement (.btS d) := by simp [Statement, encode]
theorem jmp (n : Reg) : Statement (.jmp n) := by simp [Statement, encode]
theorem rts : Statement (.rts) := by simp [Statement, encode]
theorem bsr (d : BitVec 12) : Statement (.bsr d) := by simp [Statement, encode]
theorem bsrf (n : Reg) : Statement (.bsrf n) := by simp [Statement, encode]
theorem jsr (n : Reg) : Statement (.jsr n) := by simp [Statement, encode]
theorem clrmac : Statement (.clrmac) := by simp [Statement, encode]
theorem clrs : Statement (.clrs) := by simp [Statement, encode]
theorem clrt : Statement (.clrt) := by simp [Statement, encode]
theorem ldcGbr (m : Reg) : Statement (.ldcGbr m) := by simp [Statement, encode]
theorem ldcVbr (m : Reg) : Statement (.ldcVbr m) := by simp [Statement, encode]
theorem ldcSgr (m : Reg) : Statement (.ldcSgr m) := by simp [Statement, encode]
theorem ldcSsr (m : Reg) : Statement (.ldcSsr m) := by simp [Statement, encode]
theorem ldcSpc (m : Reg) : Statement (.ldcSpc m) := by simp [Statement, encode]
theorem ldcDbr (m : Reg) : Statement (.ldcDbr m) := by simp [Statement, encode]
theorem ldcBank (m : Reg) (b : BankReg) : Statement (.ldcBank m b) := by simp [Statement, encode]
theorem ldcLGbr (m : Reg) : Statement (.ldcLGbr m) := by simp [Statement, encode]
theorem ldcLVbr (m : Reg) : Statement (.ldcLVbr m) := by simp [Statement, encode]
theorem ldcLSgr (m : Reg) : Statement (.ldcLSgr m) := by simp [Statement, encode]
theorem ldcLSsr (m : Reg) : Statement (.ldcLSsr m) := by simp [Statement, encode]
theorem ldcLSpc (m : Reg) : Statement (.ldcLSpc m) := by simp [Statement, encode]
theorem ldcLDbr (m : Reg) : Statement (.ldcLDbr m) := by simp [Statement, encode]
theorem ldcLBank (m : Reg) (b : BankReg) : Statement (.ldcLBank m b) := by simp [Statement, encode]
theorem ldsMach (m : Reg) : Statement (.ldsMach m) := by simp [Statement, encode]
theorem ldsMacl (m : Reg) : Statement (.ldsMacl m) := by simp [Statement, encode]
theorem ldsPr (m : Reg) : Statement (.ldsPr m) := by simp [Statement, encode]
theorem ldsLMach (m : Reg) : Statement (.ldsLMach m) := by simp [Statement, encode]
theorem ldsLMacl (m : Reg) : Statement (.ldsLMacl m) := by simp [Statement, encode]
theorem ldsLPr (m : Reg) : Statement (.ldsLPr m) := by simp [Statement, encode]
theorem ldtlb : Statement (.ldtlb) := by simp [Statement, encode]
theorem nop : Statement (.nop) := by simp [Statement, encode]
theorem rte : Statement (.rte) := by simp [Statement, encode]
theorem sets : Statement (.sets) := by simp [Statement, encode]
theorem sett : Statement (.sett) := by simp [Statement, encode]
theorem sleep : Statement (.sleep) := by simp [Statement, encode]
theorem stcGbr (n : Reg) : Statement (.stcGbr n) := by simp [Statement, encode]
theorem stcVbr (n : Reg) : Statement (.stcVbr n) := by simp [Statement, encode]
theorem stcSsr (n : Reg) : Statement (.stcSsr n) := by simp [Statement, encode]
theorem stcSpc (n : Reg) : Statement (.stcSpc n) := by simp [Statement, encode]
theorem stcSgr (n : Reg) : Statement (.stcSgr n) := by simp [Statement, encode]
theorem stcDbr (n : Reg) : Statement (.stcDbr n) := by simp [Statement, encode]
theorem stcBank (b : BankReg) (n : Reg) : Statement (.stcBank b n) := by simp [Statement, encode]
theorem stcLGbr (n : Reg) : Statement (.stcLGbr n) := by simp [Statement, encode]
theorem stcLVbr (n : Reg) : Statement (.stcLVbr n) := by simp [Statement, encode]
theorem stcLSsr (n : Reg) : Statement (.stcLSsr n) := by simp [Statement, encode]
theorem stcLSpc (n : Reg) : Statement (.stcLSpc n) := by simp [Statement, encode]
theorem stcLSgr (n : Reg) : Statement (.stcLSgr n) := by simp [Statement, encode]
theorem stcLDbr (n : Reg) : Statement (.stcLDbr n) := by simp [Statement, encode]
theorem stcLBank (b : BankReg) (n : Reg) : Statement (.stcLBank b n) := by simp [Statement, encode]
theorem stsMach (n : Reg) : Statement (.stsMach n) := by simp [Statement, encode]
theorem stsMacl (n : Reg) : Statement (.stsMacl n) := by simp [Statement, encode]
theorem stsPr (n : Reg) : Statement (.stsPr n) := by simp [Statement, encode]
theorem stsLMach (n : Reg) : Statement (.stsLMach n) := by simp [Statement, encode]
theorem stsLMacl (n : Reg) : Statement (.stsLMacl n) := by simp [Statement, encode]
theorem stsLPr (n : Reg) : Statement (.stsLPr n) := by simp [Statement, encode]
theorem trapa (i : BitVec 8) : Statement (.trapa i) := by simp [Statement, encode]
theorem mov (m : Reg) (n : Reg) : Statement (.mov m n) := by simp [Statement, encode]
theorem movBStore (m : Reg) (n : Reg) : Statement (.movBStore m n) := by simp [Statement, encode]
theorem movWStore (m : Reg) (n : Reg) : Statement (.movWStore m n) := by simp [Statement, encode]
theorem movLStore (m : Reg) (n : Reg) : Statement (.movLStore m n) := by simp [Statement, encode]
theorem movBLoad (m : Reg) (n : Reg) : Statement (.movBLoad m n) := by simp [Statement, encode]
theorem movWLoad (m : Reg) (n : Reg) : Statement (.movWLoad m n) := by simp [Statement, encode]
theorem movLLoad (m : Reg) (n : Reg) : Statement (.movLLoad m n) := by simp [Statement, encode]
theorem movBStoreDec (m : Reg) (n : Reg) : Statement (.movBStoreDec m n) := by simp [Statement, encode]
theorem movWStoreDec (m : Reg) (n : Reg) : Statement (.movWStoreDec m n) := by simp [Statement, encode]
theorem movLStoreDec (m : Reg) (n : Reg) : Statement (.movLStoreDec m n) := by simp [Statement, encode]
theorem movBLoadInc (m : Reg) (n : Reg) : Statement (.movBLoadInc m n) := by simp [Statement, encode]
theorem movWLoadInc (m : Reg) (n : Reg) : Statement (.movWLoadInc m n) := by simp [Statement, encode]
theorem movLLoadInc (m : Reg) (n : Reg) : Statement (.movLLoadInc m n) := by simp [Statement, encode]
theorem movBStoreIdx (m : Reg) (n : Reg) : Statement (.movBStoreIdx m n) := by simp [Statement, encode]
theorem movWStoreIdx (m : Reg) (n : Reg) : Statement (.movWStoreIdx m n) := by simp [Statement, encode]
theorem movLStoreIdx (m : Reg) (n : Reg) : Statement (.movLStoreIdx m n) := by simp [Statement, encode]
theorem movBLoadIdx (m : Reg) (n : Reg) : Statement (.movBLoadIdx m n) := by simp [Statement, encode]
theorem movWLoadIdx (m : Reg) (n : Reg) : Statement (.movWLoadIdx m n) := by simp [Statement, encode]
theorem movLLoadIdx (m : Reg) (n : Reg) : Statement (.movLLoadIdx m n) := by simp [Statement, encode]
theorem movImm (i : BitVec 8) (n : Reg) : Statement (.movImm i n) := by simp [Statement, encode]
theorem movWLoadPc (d : BitVec 8) (n : Reg) : Statement (.movWLoadPc d n) := by simp [Statement, encode]
theorem movLLoadPc (d : BitVec 8) (n : Reg) : Statement (.movLLoadPc d n) := by simp [Statement, encode]
theorem movBLoadGbr (d : BitVec 8) : Statement (.movBLoadGbr d) := by simp [Statement, encode]
theorem movWLoadGbr (d : BitVec 8) : Statement (.movWLoadGbr d) := by simp [Statement, encode]
theorem movLLoadGbr (d : BitVec 8) : Statement (.movLLoadGbr d) := by simp [Statement, encode]
theorem movBStoreGbr (d : BitVec 8) : Statement (.movBStoreGbr d) := by simp [Statement, encode]
theorem movWStoreGbr (d : BitVec 8) : Statement (.movWStoreGbr d) := by simp [Statement, encode]
theorem movLStoreGbr (d : BitVec 8) : Statement (.movLStoreGbr d) := by simp [Statement, encode]
theorem movBStoreDisp (d : BitVec 4) (n : Reg) : Statement (.movBStoreDisp d n) := by simp [Statement, encode]
theorem movWStoreDisp (d : BitVec 4) (n : Reg) : Statement (.movWStoreDisp d n) := by simp [Statement, encode]
theorem movLStoreDisp (m : Reg) (d : BitVec 4) (n : Reg) : Statement (.movLStoreDisp m d n) := by simp [Statement, encode]
theorem movBLoadDisp (d : BitVec 4) (m : Reg) : Statement (.movBLoadDisp d m) := by simp [Statement, encode]
theorem movWLoadDisp (d : BitVec 4) (m : Reg) : Statement (.movWLoadDisp d m) := by simp [Statement, encode]
theorem movLLoadDisp (d : BitVec 4) (m : Reg) (n : Reg) : Statement (.movLLoadDisp d m n) := by simp [Statement, encode]
theorem mova (d : BitVec 8) : Statement (.mova d) := by simp [Statement, encode]
theorem movt (n : Reg) : Statement (.movt n) := by simp [Statement, encode]
theorem swapB (m : Reg) (n : Reg) : Statement (.swapB m n) := by simp [Statement, encode]
theorem swapW (m : Reg) (n : Reg) : Statement (.swapW m n) := by simp [Statement, encode]
theorem xtrct (m : Reg) (n : Reg) : Statement (.xtrct m n) := by simp [Statement, encode]
theorem icbi (n : Reg) : Statement (.icbi n) := by simp [Statement, encode]
theorem movcaL (n : Reg) : Statement (.movcaL n) := by simp [Statement, encode]
theorem movcoL (n : Reg) : Statement (.movcoL n) := by simp [Statement, encode]
theorem movliL (m : Reg) : Statement (.movliL m) := by simp [Statement, encode]
theorem movuaL (m : Reg) : Statement (.movuaL m) := by simp [Statement, encode]
theorem movuaLInc (m : Reg) : Statement (.movuaLInc m) := by simp [Statement, encode]
theorem ocbi (n : Reg) : Statement (.ocbi n) := by simp [Statement, encode]
theorem ocbp (n : Reg) : Statement (.ocbp n) := by simp [Statement, encode]
theorem ocbwb (n : Reg) : Statement (.ocbwb n) := by simp [Statement, encode]
theorem pref (n : Reg) : Statement (.pref n) := by simp [Statement, encode]
theorem prefi (n : Reg) : Statement (.prefi n) := by simp [Statement, encode]
theorem synco : Statement (.synco) := by simp [Statement, encode]
theorem rotcl (n : Reg) : Statement (.rotcl n) := by simp [Statement, encode]
theorem rotcr (n : Reg) : Statement (.rotcr n) := by simp [Statement, encode]
theorem rotl (n : Reg) : Statement (.rotl n) := by simp [Statement, encode]
theorem rotr (n : Reg) : Statement (.rotr n) := by simp [Statement, encode]
theorem shad (m : Reg) (n : Reg) : Statement (.shad m n) := by simp [Statement, encode]
theorem shal (n : Reg) : Statement (.shal n) := by simp [Statement, encode]
theorem shar (n : Reg) : Statement (.shar n) := by simp [Statement, encode]
theorem shld (m : Reg) (n : Reg) : Statement (.shld m n) := by simp [Statement, encode]
theorem shll (n : Reg) : Statement (.shll n) := by simp [Statement, encode]
theorem shll2 (n : Reg) : Statement (.shll2 n) := by simp [Statement, encode]
theorem shll8 (n : Reg) : Statement (.shll8 n) := by simp [Statement, encode]
theorem shll16 (n : Reg) : Statement (.shll16 n) := by simp [Statement, encode]
theorem shlr (n : Reg) : Statement (.shlr n) := by simp [Statement, encode]
theorem shlr2 (n : Reg) : Statement (.shlr2 n) := by simp [Statement, encode]
theorem shlr8 (n : Reg) : Statement (.shlr8 n) := by simp [Statement, encode]
theorem shlr16 (n : Reg) : Statement (.shlr16 n) := by simp [Statement, encode]
theorem clrdmxy : Statement (.clrdmxy) := by simp [Statement, encode]
theorem ldcSr (m : Reg) : Statement (.ldcSr m) := by simp [Statement, encode]
theorem ldcMod (m : Reg) : Statement (.ldcMod m) := by simp [Statement, encode]
theorem ldcRe (m : Reg) : Statement (.ldcRe m) := by simp [Statement, encode]
theorem ldcRs (m : Reg) : Statement (.ldcRs m) := by simp [Statement, encode]
theorem ldcLSr (m : Reg) : Statement (.ldcLSr m) := by simp [Statement, encode]
theorem ldcLMod (m : Reg) : Statement (.ldcLMod m) := by simp [Statement, encode]
theorem ldcLRe (m : Reg) : Statement (.ldcLRe m) := by simp [Statement, encode]
theorem ldcLRs (m : Reg) : Statement (.ldcLRs m) := by simp [Statement, encode]
theorem ldrc (m : Reg) : Statement (.ldrc m) := by simp [Statement, encode]
theorem ldrcImm (i : BitVec 8) : Statement (.ldrcImm i) := by simp [Statement, encode]
theorem ldre (d : BitVec 8) : Statement (.ldre d) := by simp [Statement, encode]
theorem ldsDsr (m : Reg) : Statement (.ldsDsr m) := by simp [Statement, encode]
theorem ldsA0 (m : Reg) : Statement (.ldsA0 m) := by simp [Statement, encode]
theorem ldsX0 (m : Reg) : Statement (.ldsX0 m) := by simp [Statement, encode]
theorem ldsX1 (m : Reg) : Statement (.ldsX1 m) := by simp [Statement, encode]
theorem ldsY0 (m : Reg) : Statement (.ldsY0 m) := by simp [Statement, encode]
theorem ldsY1 (m : Reg) : Statement (.ldsY1 m) := by simp [Statement, encode]
theorem ldsLDsr (m : Reg) : Statement (.ldsLDsr m) := by simp [Statement, encode]
theorem ldsLA0 (m : Reg) : Statement (.ldsLA0 m) := by simp [Statement, encode]
theorem ldsLX0 (m : Reg) : Statement (.ldsLX0 m) := by simp [Statement, encode]
theorem ldsLX1 (m : Reg) : Statement (.ldsLX1 m) := by simp [Statement, encode]
theorem ldsLY0 (m : Reg) : Statement (.ldsLY0 m) := by simp [Statement, encode]
theorem ldsLY1 (m : Reg) : Statement (.ldsLY1 m) := by simp [Statement, encode]
theorem ldrs (d : BitVec 8) : Statement (.ldrs d) := by simp [Statement, encode]
theorem setdmx : Statement (.setdmx) := by simp [Statement, encode]
theorem setdmy : Statement (.setdmy) := by simp [Statement, encode]
theorem setrc (m : Reg) : Statement (.setrc m) := by simp [Statement, encode]
theorem setrcImm (i : BitVec 8) : Statement (.setrcImm i) := by simp [Statement, encode]
theorem stcSr (n : Reg) : Statement (.stcSr n) := by simp [Statement, encode]
theorem stcMod (n : Reg) : Statement (.stcMod n) := by simp [Statement, encode]
theorem stcRe (n : Reg) : Statement (.stcRe n) := by simp [Statement, encode]
theorem stcRs (n : Reg) : Statement (.stcRs n) := by simp [Statement, encode]
theorem stcLSr (n : Reg) : Statement (.stcLSr n) := by simp [Statement, encode]
theorem stcLMod (n : Reg) : Statement (.stcLMod n) := by simp [Statement, encode]
theorem stcLRe (n : Reg) : Statement (.stcLRe n) := by simp [Statement, encode]
theorem stcLRs (n : Reg) : Statement (.stcLRs n) := by simp [Statement, encode]
theorem stsDsr (n : Reg) : Statement (.stsDsr n) := by simp [Statement, encode]
theorem stsA0 (n : Reg) : Statement (.stsA0 n) := by simp [Statement, encode]
theorem stsX0 (n : Reg) : Statement (.stsX0 n) := by simp [Statement, encode]
theorem stsX1 (n : Reg) : Statement (.stsX1 n) := by simp [Statement, encode]
theorem stsY0 (n : Reg) : Statement (.stsY0 n) := by simp [Statement, encode]
theorem stsY1 (n : Reg) : Statement (.stsY1 n) := by simp [Statement, encode]
theorem stsLDsr (n : Reg) : Statement (.stsLDsr n) := by simp [Statement, encode]
theorem stsLA0 (n : Reg) : Statement (.stsLA0 n) := by simp [Statement, encode]
theorem stsLX0 (n : Reg) : Statement (.stsLX0 n) := by simp [Statement, encode]
theorem stsLX1 (n : Reg) : Statement (.stsLX1 n) := by simp [Statement, encode]
theorem stsLY0 (n : Reg) : Statement (.stsLY0 n) := by simp [Statement, encode]
theorem stsLY1 (n : Reg) : Statement (.stsLY1 n) := by simp [Statement, encode]

end Sys2Proof.Laws.NotDspSpace
end

