-- ==== Sys2Proof/Laws/Step.lean ====
section
/-! SUPPORT. What one step can do, said once: the ways `step` answers a next state (`step_ends`), and the ways it stops on a
fetch. -/

namespace Sys2Proof.Machine

/-- The model's test of the end of a run is the predicate of the claims (60_exceptions.md R476). -/
theorem runEnded_iff (s : State) : s.runEnded = true ↔ RunEnded s := by
  unfold State.runEnded RunEnded; simp

/-- The fetch that answers was made at an even address (20_memory.md R73). -/
theorem fetch_even {s : State} {w : Half} (h : fetch s = .ok w) : s.pc.toNat % 2 = 0 := by
  unfold fetch at h
  obtain ⟨_, h1, -⟩ := access_bind_ok.1 h
  exact checkAligned_ok.1 h1

/-- A byte mapped keeps the kind it had, or is ram where it was in no region; every other byte keeps what it had. -/
theorem regionKind_mapByte (regions : List Config.Region) (a b : Word) :
    regionKind (mapByte regions a) b =
      (regionKind regions b).or (if b = a then some .ram else none) := by
  unfold mapByte
  cases ha : regionKind regions a with
  | some k =>
    by_cases h : b = a
    · subst h; simp [ha]
    · simp [h]
  | none =>
    have h1 : (decide (a.toNat ≤ b.toNat) && decide (b.toNat < a.toNat + 1)) = decide (b = a) := by
      by_cases h : b = a
      · subst h; simp
      · have : b.toNat ≠ a.toNat := fun g => h (BitVec.eq_of_toNat_eq g)
        simp only [h, decide_false, Bool.and_eq_false_iff, decide_eq_false_iff_not]
        omega
    simp only [Option.isSome_none, Bool.false_eq_true, if_false, regionKind, List.find?_append, List.find?_cons,
      List.find?_nil, h1]
    cases List.find? _ regions <;> by_cases h : b = a <;> simp [h]

/-- The word `withFetchWord` stores is the word at the pc, where no register is mapped and no device lies there. -/
theorem wordAt_withFetchWord (s : State) (n w : Nat)
    (h : ∀ k < 2, isControl (s.pc + BitVec.ofNat 32 k) = false ∧
      regionKind s.params.memMap (s.pc + BitVec.ofNat 32 k) ≠ some .device) :
    wordAt (s.withFetchWord n w) s.pc = .ok (BitVec.ofNat 16 w) := by
  refine wordAt_ok.2 (Or.inl fun k hk => ⟨?_, ?_⟩)
  · obtain ⟨h1, h2⟩ := h k hk
    have hk : s.pc + BitVec.ofNat 32 k = s.pc ∨ s.pc + BitVec.ofNat 32 k = s.pc + 1 := by
      have : k = 0 ∨ k = 1 := by omega
      rcases this with rfl | rfl
      · exact Or.inl (by simp)
      · exact Or.inr rfl
    simp only [State.readableAt, State.withFetchWord, State.placeWord_params, State.mapCode, regionKind_mapByte, h1]
    revert h2
    rcases regionKind s.params.memMap (s.pc + BitVec.ofNat 32 k) with _ | _ | _ | _ <;> rcases hk with e | e <;>
      simp [e]
  · have hn : ((s.pc + BitVec.ofNat 32 k) - s.mapCode.pc).toNat = k := by
      rw [State.mapCode_pc, BitVec.add_comm, BitVec.add_sub_cancel, BitVec.toNat_ofNat, Nat.mod_eq_of_lt (by omega)]
    refine (assocGet_putBytes _ _ _ _ (by simp [halfBytes])).trans ?_
    rw [if_pos (by rw [hn]; simpa [halfBytes] using hk), hn]
    rfl

/-- Using up an answer of the host changes no other field. -/
theorem hostTaken_eq (s : State) (a : Word) : ∃ y, s.hostTaken a = { s with host := y } := by
  unfold State.hostTaken
  split
  · exact ⟨_, rfl⟩
  · exact ⟨s.host, rfl⟩

/-- The instruction at the pc answers a next state by an exception or by its meaning, from the same state but for the
host's answers. -/
theorem runInstr_next {s t : State} (h : runInstr s = .next t) :
    ∃ y, (∃ e, raise e { s with host := y } = .next t) ∨
      (∃ i, s.pc.toNat % 2 = 0 ∧ exec i { s with host := y } = .next t) := by
  unfold runInstr at h
  split at h
  · rename_i x _
    cases x with
    | exc e => exact ⟨s.host, Or.inl ⟨e, h⟩⟩
    | fault f => cases h
    | refused r => cases h
  · rename_i w hw
    obtain ⟨y, hy⟩ := hostTaken_eq s s.pc
    rw [hy] at h
    refine ⟨y, ?_⟩
    unfold runWord at h
    split at h
    · cases h
    · obtain ⟨e, -, he⟩ := raiseIllegal_next h; exact Or.inl ⟨e, he⟩
    · obtain ⟨e, -, he⟩ := raiseIllegal_next h; exact Or.inl ⟨e, he⟩
    · split at h
      · exact Or.inl ⟨_, h⟩
      · exact Or.inr ⟨_, fetch_even hw, h⟩

/-- The ways a step answers a next state: the run has ended and nothing changes, an interrupt is accepted, the machine
sleeps on, or, in a slot or awake, an instruction runs or raises from the same state but for the answers used up. -/
theorem step_ends {s t : State} (h : step s = .next t) :
    (RunEnded s ∧ t = s) ∨
    (∃ q, s.pending = none ∧ s.irqNow = some q ∧ s.accepts q = true ∧ t = s.irqTaken.enterInterrupt q) ∨
    (s.pending = none ∧ s.asleep = true ∧ t = s.irqTaken) ∨
    (∃ x y, (s.pending ≠ none ∨ s.asleep = false) ∧
      ((∃ e, raise e { s with irq := x, host := y } = .next t) ∨
        (∃ i, s.pc.toNat % 2 = 0 ∧ exec i { s with irq := x, host := y } = .next t))) := by
  have hsl : s.pending = none → runUnlessAsleep s.irqTaken = .next t →
      (s.pending = none ∧ s.asleep = true ∧ t = s.irqTaken) ∨
      (∃ x y, (s.pending ≠ none ∨ s.asleep = false) ∧
        ((∃ e, raise e { s with irq := x, host := y } = .next t) ∨
          (∃ i, s.pc.toNat % 2 = 0 ∧ exec i { s with irq := x, host := y } = .next t))) := by
    intro hp hu
    unfold runUnlessAsleep at hu
    split at hu
    · rename_i ha
      cases hu
      exact Or.inl ⟨hp, ha, rfl⟩
    · rename_i ha
      obtain ⟨y, hy⟩ := runInstr_next hu
      have ha : s.asleep = false := by simpa [State.irqTaken] using ha
      exact Or.inr ⟨s.irq.tail, y, Or.inr ha, hy⟩
  unfold step at h
  split at h
  · rename_i hp
    obtain ⟨y, hy⟩ := runInstr_next h
    exact Or.inr (Or.inr (Or.inr ⟨s.irq, y, Or.inl (by intro h0; simp [h0] at hp), hy⟩))
  · rename_i hp
    have hp : s.pending = none := by simpa using hp
    unfold runBoundary at h
    split at h
    · rename_i he
      cases h
      exact Or.inl ⟨(runEnded_iff s).1 he, rfl⟩
    · split at h
      · cases h
      · split at h
        · exact Or.inr (Or.inr (hsl hp h))
        · rename_i q hq
          split at h
          · cases h
          · split at h
            · rename_i ha
              cases h
              exact Or.inr (Or.inl ⟨q, hp, hq, ha, rfl⟩)
            · exact Or.inr (Or.inr (hsl hp h))

end Sys2Proof.Machine
end

