-- ==== Sys2Proof/Tests/Slice0.lean ====
section
/-! SUPPORT. Tests. Every expected result is from spec/: the words are written out from the encodings of 30_encoding.md
R120; the states from the examples of the rules and from 95_test_vectors.md (parts 2 to 6). -/

namespace Sys2Proof

set_option Elab.async false

/-! ## Well-formedness refuses an ill-formed term for each check -/

theorem test_setrc_zero_ill_formed : (Instr.setrcImm 0).wellFormed = false := by decide

theorem test_ldrc_zero_ill_formed : (Instr.ldrcImm 0).wellFormed = false := by decide

theorem test_setrc_255_well_formed : (Instr.setrcImm 255).wellFormed = true := by decide

/-! ## Every constructor's decoding, from words written out from the encodings -/

/-- The word decodes to the instruction, and the instruction encodes to the word. -/
def reads (w : Half) (i : Instr) : Bool := decode w == .ok i && encode i == w

theorem test_decode_arithmetic_0 :
    (reads 0b0011010110101100#16 (.add 0xA 0x5) &&
      reads 0b0111010110010111#16 (.addImm 0x97 0x5) &&
      reads 0b0011010110101110#16 (.addc 0xA 0x5) &&
      reads 0b0011010110101111#16 (.addv 0xA 0x5) &&
      reads 0b0011010110100000#16 (.cmpEq 0xA 0x5) &&
      reads 0b0011010110100011#16 (.cmpGe 0xA 0x5) &&
      reads 0b0011010110100111#16 (.cmpGt 0xA 0x5) &&
      reads 0b0011010110100110#16 (.cmpHi 0xA 0x5) &&
      reads 0b0011010110100010#16 (.cmpHs 0xA 0x5) &&
      reads 0b0100010100010101#16 (.cmpPl 0x5) &&
      reads 0b0100010100010001#16 (.cmpPz 0x5) &&
      reads 0b0010010110101100#16 (.cmpStr 0xA 0x5) &&
      reads 0b1000100010010111#16 (.cmpEqImm 0x97) &&
      reads 0b0010010110100111#16 (.div0s 0xA 0x5) &&
      reads 0b0000000000011001#16 .div0u &&
      reads 0b0011010110100100#16 (.div1 0xA 0x5) &&
      reads 0b0011010110101101#16 (.dmulsL 0xA 0x5) &&
      reads 0b0011010110100101#16 (.dmuluL 0xA 0x5) &&
      reads 0b0100010100010000#16 (.dt 0x5) &&
      reads 0b0110010110101110#16 (.extsB 0xA 0x5) &&
      reads 0b0110010110101111#16 (.extsW 0xA 0x5) &&
      reads 0b0110010110101100#16 (.extuB 0xA 0x5) &&
      reads 0b0110010110101101#16 (.extuW 0xA 0x5) &&
      reads 0b0000010110101111#16 (.macL 0xA 0x5) &&
      reads 0b0100010110101111#16 (.macW 0xA 0x5)) = true := by
  decide

theorem test_decode_arithmetic_1 :
    (reads 0b0000010110100111#16 (.mulL 0xA 0x5) &&
      reads 0b0010010110101111#16 (.mulsW 0xA 0x5) &&
      reads 0b0010010110101110#16 (.muluW 0xA 0x5) &&
      reads 0b0110010110101011#16 (.neg 0xA 0x5) &&
      reads 0b0110010110101010#16 (.negc 0xA 0x5) &&
      reads 0b0011010110101000#16 (.sub 0xA 0x5) &&
      reads 0b0011010110101010#16 (.subc 0xA 0x5) &&
      reads 0b0011010110101011#16 (.subv 0xA 0x5)) = true := by
  decide

theorem test_decode_logical_0 :
    (reads 0b0010010110101001#16 (.andReg 0xA 0x5) &&
      reads 0b1100100110010111#16 (.andImm 0x97) &&
      reads 0b1100110110010111#16 (.andB 0x97) &&
      reads 0b0110010110100111#16 (.notReg 0xA 0x5) &&
      reads 0b0010010110101011#16 (.orReg 0xA 0x5) &&
      reads 0b1100101110010111#16 (.orImm 0x97) &&
      reads 0b1100111110010111#16 (.orB 0x97) &&
      reads 0b0100010100011011#16 (.tasB 0x5) &&
      reads 0b0010010110101000#16 (.tstReg 0xA 0x5) &&
      reads 0b1100100010010111#16 (.tstImm 0x97) &&
      reads 0b1100110010010111#16 (.tstB 0x97) &&
      reads 0b0010010110101010#16 (.xorReg 0xA 0x5) &&
      reads 0b1100101010010111#16 (.xorImm 0x97) &&
      reads 0b1100111010010111#16 (.xorB 0x97)) = true := by
  decide

theorem test_decode_branch_0 :
    (reads 0b1000101110000011#16 (.bf 0x83) &&
      reads 0b1000111110000011#16 (.bfS 0x83) &&
      reads 0b1010100010100011#16 (.bra 0x8A3) &&
      reads 0b0000010100100011#16 (.braf 0x5) &&
      reads 0b1000100110000011#16 (.bt 0x83) &&
      reads 0b1000110110000011#16 (.btS 0x83) &&
      reads 0b0100010100101011#16 (.jmp 0x5) &&
      reads 0b0000000000001011#16 .rts &&
      reads 0b1011100010100011#16 (.bsr 0x8A3) &&
      reads 0b0000010100000011#16 (.bsrf 0x5) &&
      reads 0b0100010100001011#16 (.jsr 0x5)) = true := by
  decide

theorem test_decode_system_control_0 :
    (reads 0b0000000000101000#16 .clrmac &&
      reads 0b0000000001001000#16 .clrs &&
      reads 0b0000000000001000#16 .clrt &&
      reads 0b0100101000011110#16 (.ldcGbr 0xA) &&
      reads 0b0100101000101110#16 (.ldcVbr 0xA) &&
      reads 0b0100101000111010#16 (.ldcSgr 0xA) &&
      reads 0b0100101000111110#16 (.ldcSsr 0xA) &&
      reads 0b0100101001001110#16 (.ldcSpc 0xA) &&
      reads 0b0100101011111010#16 (.ldcDbr 0xA) &&
      reads 0b0100101011101110#16 (.ldcBank 0xA 0x6) &&
      reads 0b0100101000010111#16 (.ldcLGbr 0xA) &&
      reads 0b0100101000100111#16 (.ldcLVbr 0xA) &&
      reads 0b0100101000110110#16 (.ldcLSgr 0xA) &&
      reads 0b0100101000110111#16 (.ldcLSsr 0xA) &&
      reads 0b0100101001000111#16 (.ldcLSpc 0xA) &&
      reads 0b0100101011110110#16 (.ldcLDbr 0xA) &&
      reads 0b0100101011100111#16 (.ldcLBank 0xA 0x6) &&
      reads 0b0100101000001010#16 (.ldsMach 0xA) &&
      reads 0b0100101000011010#16 (.ldsMacl 0xA) &&
      reads 0b0100101000101010#16 (.ldsPr 0xA) &&
      reads 0b0100101000000110#16 (.ldsLMach 0xA) &&
      reads 0b0100101000010110#16 (.ldsLMacl 0xA) &&
      reads 0b0100101000100110#16 (.ldsLPr 0xA) &&
      reads 0b0000000000111000#16 .ldtlb &&
      reads 0b0000000000001001#16 .nop) = true := by
  decide

theorem test_decode_system_control_1 :
    (reads 0b0000000000101011#16 .rte &&
      reads 0b0000000001011000#16 .sets &&
      reads 0b0000000000011000#16 .sett &&
      reads 0b0000000000011011#16 .sleep &&
      reads 0b0000010100010010#16 (.stcGbr 0x5) &&
      reads 0b0000010100100010#16 (.stcVbr 0x5) &&
      reads 0b0000010100110010#16 (.stcSsr 0x5) &&
      reads 0b0000010101000010#16 (.stcSpc 0x5) &&
      reads 0b0000010100111010#16 (.stcSgr 0x5) &&
      reads 0b0000010111111010#16 (.stcDbr 0x5) &&
      reads 0b0000010111100010#16 (.stcBank 0x6 0x5) &&
      reads 0b0100010100010011#16 (.stcLGbr 0x5) &&
      reads 0b0100010100100011#16 (.stcLVbr 0x5) &&
      reads 0b0100010100110011#16 (.stcLSsr 0x5) &&
      reads 0b0100010101000011#16 (.stcLSpc 0x5) &&
      reads 0b0100010100110010#16 (.stcLSgr 0x5) &&
      reads 0b0100010111110010#16 (.stcLDbr 0x5) &&
      reads 0b0100010111100011#16 (.stcLBank 0x6 0x5) &&
      reads 0b0000010100001010#16 (.stsMach 0x5) &&
      reads 0b0000010100011010#16 (.stsMacl 0x5) &&
      reads 0b0000010100101010#16 (.stsPr 0x5) &&
      reads 0b0100010100000010#16 (.stsLMach 0x5) &&
      reads 0b0100010100010010#16 (.stsLMacl 0x5) &&
      reads 0b0100010100100010#16 (.stsLPr 0x5) &&
      reads 0b1100001110010111#16 (.trapa 0x97)) = true := by
  decide

theorem test_decode_data_transfer_0 :
    (reads 0b0110010110100011#16 (.mov 0xA 0x5) &&
      reads 0b0010010110100000#16 (.movBStore 0xA 0x5) &&
      reads 0b0010010110100001#16 (.movWStore 0xA 0x5) &&
      reads 0b0010010110100010#16 (.movLStore 0xA 0x5) &&
      reads 0b0110010110100000#16 (.movBLoad 0xA 0x5) &&
      reads 0b0110010110100001#16 (.movWLoad 0xA 0x5) &&
      reads 0b0110010110100010#16 (.movLLoad 0xA 0x5) &&
      reads 0b0010010110100100#16 (.movBStoreDec 0xA 0x5) &&
      reads 0b0010010110100101#16 (.movWStoreDec 0xA 0x5) &&
      reads 0b0010010110100110#16 (.movLStoreDec 0xA 0x5) &&
      reads 0b0110010110100100#16 (.movBLoadInc 0xA 0x5) &&
      reads 0b0110010110100101#16 (.movWLoadInc 0xA 0x5) &&
      reads 0b0110010110100110#16 (.movLLoadInc 0xA 0x5) &&
      reads 0b0000010110100100#16 (.movBStoreIdx 0xA 0x5) &&
      reads 0b0000010110100101#16 (.movWStoreIdx 0xA 0x5) &&
      reads 0b0000010110100110#16 (.movLStoreIdx 0xA 0x5) &&
      reads 0b0000010110101100#16 (.movBLoadIdx 0xA 0x5) &&
      reads 0b0000010110101101#16 (.movWLoadIdx 0xA 0x5) &&
      reads 0b0000010110101110#16 (.movLLoadIdx 0xA 0x5) &&
      reads 0b1110010110010111#16 (.movImm 0x97 0x5) &&
      reads 0b1001010110000011#16 (.movWLoadPc 0x83 0x5) &&
      reads 0b1101010110000011#16 (.movLLoadPc 0x83 0x5) &&
      reads 0b1100010010000011#16 (.movBLoadGbr 0x83) &&
      reads 0b1100010110000011#16 (.movWLoadGbr 0x83) &&
      reads 0b1100011010000011#16 (.movLLoadGbr 0x83)) = true := by
  decide

theorem test_decode_data_transfer_1 :
    (reads 0b1100000010000011#16 (.movBStoreGbr 0x83) &&
      reads 0b1100000110000011#16 (.movWStoreGbr 0x83) &&
      reads 0b1100001010000011#16 (.movLStoreGbr 0x83) &&
      reads 0b1000000001011001#16 (.movBStoreDisp 0x9 0x5) &&
      reads 0b1000000101011001#16 (.movWStoreDisp 0x9 0x5) &&
      reads 0b0001010110101001#16 (.movLStoreDisp 0xA 0x9 0x5) &&
      reads 0b1000010010101001#16 (.movBLoadDisp 0x9 0xA) &&
      reads 0b1000010110101001#16 (.movWLoadDisp 0x9 0xA) &&
      reads 0b0101010110101001#16 (.movLLoadDisp 0x9 0xA 0x5) &&
      reads 0b1100011110000011#16 (.mova 0x83) &&
      reads 0b0000010100101001#16 (.movt 0x5) &&
      reads 0b0110010110101000#16 (.swapB 0xA 0x5) &&
      reads 0b0110010110101001#16 (.swapW 0xA 0x5) &&
      reads 0b0010010110101101#16 (.xtrct 0xA 0x5)) = true := by
  decide

theorem test_decode_cache_sync_0 :
    (reads 0b0000010111100011#16 (.icbi 0x5) &&
      reads 0b0000010111000011#16 (.movcaL 0x5) &&
      reads 0b0000010101110011#16 (.movcoL 0x5) &&
      reads 0b0000101001100011#16 (.movliL 0xA) &&
      reads 0b0100101010101001#16 (.movuaL 0xA) &&
      reads 0b0100101011101001#16 (.movuaLInc 0xA) &&
      reads 0b0000010110010011#16 (.ocbi 0x5) &&
      reads 0b0000010110100011#16 (.ocbp 0x5) &&
      reads 0b0000010110110011#16 (.ocbwb 0x5) &&
      reads 0b0000010110000011#16 (.pref 0x5) &&
      reads 0b0000010111010011#16 (.prefi 0x5) &&
      reads 0b0000000010101011#16 .synco) = true := by
  decide

theorem test_decode_shift_0 :
    (reads 0b0100010100100100#16 (.rotcl 0x5) &&
      reads 0b0100010100100101#16 (.rotcr 0x5) &&
      reads 0b0100010100000100#16 (.rotl 0x5) &&
      reads 0b0100010100000101#16 (.rotr 0x5) &&
      reads 0b0100010110101100#16 (.shad 0xA 0x5) &&
      reads 0b0100010100100000#16 (.shal 0x5) &&
      reads 0b0100010100100001#16 (.shar 0x5) &&
      reads 0b0100010110101101#16 (.shld 0xA 0x5) &&
      reads 0b0100010100000000#16 (.shll 0x5) &&
      reads 0b0100010100001000#16 (.shll2 0x5) &&
      reads 0b0100010100011000#16 (.shll8 0x5) &&
      reads 0b0100010100101000#16 (.shll16 0x5) &&
      reads 0b0100010100000001#16 (.shlr 0x5) &&
      reads 0b0100010100001001#16 (.shlr2 0x5) &&
      reads 0b0100010100011001#16 (.shlr8 0x5) &&
      reads 0b0100010100101001#16 (.shlr16 0x5)) = true := by
  decide

theorem test_decode_dsp_control_0 :
    (reads 0b0000000010001000#16 .clrdmxy &&
      reads 0b0100101000001110#16 (.ldcSr 0xA) &&
      reads 0b0100101001011110#16 (.ldcMod 0xA) &&
      reads 0b0100101001111110#16 (.ldcRe 0xA) &&
      reads 0b0100101001101110#16 (.ldcRs 0xA) &&
      reads 0b0100101000000111#16 (.ldcLSr 0xA) &&
      reads 0b0100101001010111#16 (.ldcLMod 0xA) &&
      reads 0b0100101001110111#16 (.ldcLRe 0xA) &&
      reads 0b0100101001100111#16 (.ldcLRs 0xA) &&
      reads 0b0100101000110100#16 (.ldrc 0xA) &&
      reads 0b1000101010010111#16 (.ldrcImm 0x97) &&
      reads 0b1000111010000011#16 (.ldre 0x83) &&
      reads 0b0100101001101010#16 (.ldsDsr 0xA) &&
      reads 0b0100101001111010#16 (.ldsA0 0xA) &&
      reads 0b0100101010001010#16 (.ldsX0 0xA) &&
      reads 0b0100101010011010#16 (.ldsX1 0xA) &&
      reads 0b0100101010101010#16 (.ldsY0 0xA) &&
      reads 0b0100101010111010#16 (.ldsY1 0xA) &&
      reads 0b0100101001100110#16 (.ldsLDsr 0xA) &&
      reads 0b0100101001110110#16 (.ldsLA0 0xA) &&
      reads 0b0100101010000110#16 (.ldsLX0 0xA) &&
      reads 0b0100101010010110#16 (.ldsLX1 0xA) &&
      reads 0b0100101010100110#16 (.ldsLY0 0xA) &&
      reads 0b0100101010110110#16 (.ldsLY1 0xA) &&
      reads 0b1000110010000011#16 (.ldrs 0x83)) = true := by
  decide

theorem test_decode_dsp_control_1 :
    (reads 0b0000000010011000#16 .setdmx &&
      reads 0b0000000011001000#16 .setdmy &&
      reads 0b0100101000010100#16 (.setrc 0xA) &&
      reads 0b1000001010010111#16 (.setrcImm 0x97) &&
      reads 0b0000010100000010#16 (.stcSr 0x5) &&
      reads 0b0000010101010010#16 (.stcMod 0x5) &&
      reads 0b0000010101110010#16 (.stcRe 0x5) &&
      reads 0b0000010101100010#16 (.stcRs 0x5) &&
      reads 0b0100010100000011#16 (.stcLSr 0x5) &&
      reads 0b0100010101010011#16 (.stcLMod 0x5) &&
      reads 0b0100010101110011#16 (.stcLRe 0x5) &&
      reads 0b0100010101100011#16 (.stcLRs 0x5) &&
      reads 0b0000010101101010#16 (.stsDsr 0x5) &&
      reads 0b0000010101111010#16 (.stsA0 0x5) &&
      reads 0b0000010110001010#16 (.stsX0 0x5) &&
      reads 0b0000010110011010#16 (.stsX1 0x5) &&
      reads 0b0000010110101010#16 (.stsY0 0x5) &&
      reads 0b0000010110111010#16 (.stsY1 0x5) &&
      reads 0b0100010101100010#16 (.stsLDsr 0x5) &&
      reads 0b0100010101110010#16 (.stsLA0 0x5) &&
      reads 0b0100010110000010#16 (.stsLX0 0x5) &&
      reads 0b0100010110010010#16 (.stsLX1 0x5) &&
      reads 0b0100010110100010#16 (.stsLY0 0x5) &&
      reads 0b0100010110110010#16 (.stsLY1 0x5)) = true := by
  decide

theorem test_decode_undefined : decode 0x0000#16 = .error .undefinedWord ∧ decode 0x003B#16 = .error .undefinedWord := by
  decide

theorem test_decode_dsp_space : decode 0xF000#16 = .error .dspSpace ∧ decode 0xFFFF#16 = .error .dspSpace := by decide

theorem test_decode_table_word : decodeTableWord 16 0x310C = some (.add 0 1) := by decide

end Sys2Proof

namespace Sys2Proof.Machine

/-- Launch parameters of the vectors: ram at H'1000 to H'3FFF and H'8C000000 to H'8C000FFF (95_test_vectors.md part 1). -/
def vecParams (e : Config.Endian) : Config.Params :=
  { defaultParams with endian := e, memMap := [⟨0x1000, 0x3000, .ram⟩, ⟨0x8C000000, 0x1000, .ram⟩] }

/-- The start state of a vector, with its SR (95_test_vectors.md part 1). -/
def vec (sr : Word) : State :=
  { State.reset with pc := 0x1000#32, sr := sr, vbr := 0x8C000000#32, params := vecParams .big }

/-- Bytes of the launch image. -/
def State.poke (s : State) (a : Word) (bs : List Byte) : State := { s with mem := putBytes s.mem a bs }

/-- The outcome is a next state of which `p` holds. -/
def goesOn (o : Outcome) (p : State → Bool) : Bool :=
  match o with
  | .next t => p t
  | .fault _ => false
  | .refused _ => false

/-- The outcome is this fault. -/
def faultsWith (o : Outcome) (f : Fault) : Bool :=
  match o with
  | .next _ => false
  | .fault g => g == f
  | .refused _ => false

/-- The outcome is this refusal. -/
def refusesWith (o : Outcome) (r : Refusal) : Bool :=
  match o with
  | .next _ => false
  | .fault _ => false
  | .refused q => q == r

/-- The outcome is an exception entry with this code and SPC (95_test_vectors.md part 1), and `p` holds after it. -/
def entersAt (f : State → Outcome) (s : State) (code spc : Word) (p : State → Bool) : Bool :=
  goesOn (f s) (fun t => t.ssr == s.sr && t.spc == spc && t.sgr == s.r 15 && t.sr == (s.sr ||| 0x70000000#32) &&
    t.expevt == code && t.ldst == false && t.pc == 0x8C000100#32 && p t)

/-! ## Vectors -/

theorem test_add_wraps :
    goesOn (runWord 0x310C#16 (State.setR (State.setR (vec 0x700000F0#32) 0x0 0x7FFFFFFF#32) 0x1 0x1#32)) (fun t => t.r 0x1 == 0x80000000#32 && t.tBit == false && t.pc == 0x1002#32) = true := by
  decide

theorem test_add_imm_sign :
    goesOn (runWord 0x73FE#16 (State.setR (vec 0x700000F0#32) 0x3 0x1#32)) (fun t => t.r 0x3 == 0xFFFFFFFF#32) = true := by
  decide

theorem test_addc_carry_in :
    goesOn (runWord 0x310E#16 (State.setT (State.setR (State.setR (vec 0x700000F0#32) 0x0 0xFFFFFFFF#32) 0x1 0x0#32) true)) (fun t => t.r 0x1 == 0x0#32 && t.tBit == true) = true := by
  decide

theorem test_addc_all :
    goesOn (runWord 0x310E#16 (State.setT (State.setR (State.setR (vec 0x700000F0#32) 0x0 0xFFFFFFFF#32) 0x1 0xFFFFFFFF#32) true)) (fun t => t.r 0x1 == 0xFFFFFFFF#32 && t.tBit == true) = true := by
  decide

theorem test_addv_overflow :
    goesOn (runWord 0x310F#16 (State.setR (State.setR (vec 0x700000F0#32) 0x0 0x2#32) 0x1 0x7FFFFFFE#32)) (fun t => t.r 0x1 == 0x80000000#32 && t.tBit == true) = true := by
  decide

theorem test_addv_none :
    goesOn (runWord 0x310F#16 (State.setT (State.setR (State.setR (vec 0x700000F0#32) 0x0 0x80000000#32) 0x1 0x7FFFFFFF#32) true)) (fun t => t.r 0x1 == 0xFFFFFFFF#32 && t.tBit == false) = true := by
  decide

theorem test_compares_equal :
    (goesOn (runWord 0x3100#16 (State.setR (State.setR (vec 0x700000F0#32) 0x0 0x12345678#32) 0x1 0x12345678#32)) (fun t => t.tBit == true && t.r 0x1 == 0x12345678#32) &&
      goesOn (runWord 0x210C#16 (State.setT (State.setR (State.setR (vec 0x700000F0#32) 0x0 0x11223344#32) 0x1 0x44112233#32) true)) (fun t => t.tBit == false) &&
      goesOn (runWord 0x232C#16 (State.setR (State.setR (vec 0x700000F0#32) 0x2 0x41424344#32) 0x3 0x5859435A#32)) (fun t => t.tBit == true) &&
      goesOn (runWord 0x88FF#16 (State.setR (vec 0x700000F0#32) 0x0 0xFFFFFFFF#32)) (fun t => t.tBit == true)) = true := by
  decide

theorem test_compares_order :
    (goesOn (runWord 0x3103#16 (State.setT (State.setR (State.setR (vec 0x700000F0#32) 0x0 0x7FFFFFFF#32) 0x1 0x80000000#32) true)) (fun t => t.tBit == false) &&
      goesOn (runWord 0x3107#16 (State.setR (State.setR (vec 0x700000F0#32) 0x0 0xFFFFFFFF#32) 0x1 0x0#32)) (fun t => t.tBit == true) &&
      goesOn (runWord 0x3106#16 (State.setT (State.setR (State.setR (vec 0x700000F0#32) 0x0 0xFFFFFFFF#32) 0x1 0x0#32) true)) (fun t => t.tBit == false) &&
      goesOn (runWord 0x3102#16 (State.setR (State.setR (vec 0x700000F0#32) 0x0 0x7FFFFFFF#32) 0x1 0x80000000#32)) (fun t => t.tBit == true) &&
      goesOn (runWord 0x4315#16 (State.setT (State.setR (vec 0x700000F0#32) 0x3 0x0#32) true)) (fun t => t.tBit == false) &&
      goesOn (runWord 0x4311#16 (State.setT (State.setR (vec 0x700000F0#32) 0x3 0x80000000#32) true)) (fun t => t.tBit == false)) = true := by
  decide

theorem test_div0s_signs :
    goesOn (runWord 0x2107#16 (State.setR (State.setR (vec 0x700000F0#32) 0x0 0x80000000#32) 0x1 0x1#32)) (fun t => t.mBit == true && t.qBit == false && t.tBit == true) = true := by
  decide

theorem test_div0u_clears :
    goesOn (runWord 0x0019#16 (State.setT (State.setQ (State.setM (vec 0x700000F0#32) true) true) true)) (fun t => t.mBit == false && t.qBit == false && t.tBit == false) = true := by
  decide

theorem test_div1_step_1 :
    goesOn (runWord 0x3104#16 (State.setT (State.setM (State.setQ (State.setR (State.setR (vec 0x700000F0#32) 0x0 0x30000#32) 0x1 0x80000007#32) false) false) true)) (fun t => t.r 0x1 == 0xFFFD000F#32 && t.qBit == false && t.tBit == true && t.mBit == false) = true := by
  decide

theorem test_div1_step_3 :
    goesOn (runWord 0x3104#16 (State.setT (State.setM (State.setQ (State.setR (State.setR (vec 0x700000F0#32) 0x0 0x30000#32) 0x1 0x80000007#32) true) false) false)) (fun t => t.r 0x1 == 0x3000E#32 && t.qBit == true && t.tBit == false && t.mBit == false) = true := by
  decide

theorem test_multiplies :
    (goesOn (runWord 0x310D#16 (State.setR (State.setR (vec 0x700000F0#32) 0x0 0xFFFFFFFE#32) 0x1 0x5555#32)) (fun t => t.mach == 0xFFFFFFFF#32 && t.macl == 0xFFFF5556#32) &&
      goesOn (runWord 0x3105#16 (State.setR (State.setR (vec 0x700000F0#32) 0x0 0xFFFFFFFE#32) 0x1 0x5555#32)) (fun t => t.mach == 0x5554#32 && t.macl == 0xFFFF5556#32) &&
      goesOn (runWord 0x0107#16 (State.setR (State.setR { vec 0x700000F0#32 with mach := 0x1234#32 } 0x0 0xFFFFFFFE#32) 0x1 0x5555#32)) (fun t => t.macl == 0xFFFF5556#32 && t.mach == 0x1234#32) &&
      goesOn (runWord 0x210F#16 (State.setR (State.setR { vec 0x700000F0#32 with mach := 0x1#32 } 0x0 0x8000#32) 0x1 0x8000#32)) (fun t => t.macl == 0x40000000#32 && t.mach == 0x1#32) &&
      goesOn (runWord 0x210E#16 (State.setR (State.setR (vec 0x700000F0#32) 0x0 0x2#32) 0x1 0xFFFFAAAA#32)) (fun t => t.macl == 0x15554#32)) = true := by
  decide

theorem test_dt_to_zero :
    goesOn (runWord 0x4510#16 (State.setR (vec 0x700000F0#32) 0x5 0x1#32)) (fun t => t.r 0x5 == 0x0#32 && t.tBit == true) = true := by
  decide

theorem test_dt_below_zero :
    goesOn (runWord 0x4510#16 (State.setT (State.setR (vec 0x700000F0#32) 0x5 0x0#32) true)) (fun t => t.r 0x5 == 0xFFFFFFFF#32 && t.tBit == false) = true := by
  decide

theorem test_extends :
    (goesOn (runWord 0x610E#16 (State.setR (vec 0x700000F0#32) 0x0 0x80#32)) (fun t => t.r 0x1 == 0xFFFFFF80#32) &&
      goesOn (runWord 0x610F#16 (State.setR (vec 0x700000F0#32) 0x0 0x8000#32)) (fun t => t.r 0x1 == 0xFFFF8000#32) &&
      goesOn (runWord 0x610C#16 (State.setR (vec 0x700000F0#32) 0x0 0xFFFFFF80#32)) (fun t => t.r 0x1 == 0x80#32) &&
      goesOn (runWord 0x610D#16 (State.setR (vec 0x700000F0#32) 0x0 0xFFFF8000#32)) (fun t => t.r 0x1 == 0x8000#32)) = true := by
  decide

theorem test_neg_min :
    goesOn (runWord 0x610B#16 (State.setR (vec 0x700000F0#32) 0x0 0x80000000#32)) (fun t => t.r 0x1 == 0x80000000#32) = true := by
  decide

theorem test_negc_borrow :
    goesOn (runWord 0x600A#16 (State.setT (State.setR (vec 0x700000F0#32) 0x0 0x0#32) true)) (fun t => t.r 0x0 == 0xFFFFFFFF#32 && t.tBit == true) = true := by
  decide

theorem test_sub_order :
    goesOn (runWord 0x3108#16 (State.setR (State.setR (vec 0x700000F0#32) 0x0 0x1#32) 0x1 0x80000000#32)) (fun t => t.r 0x1 == 0x7FFFFFFF#32) = true := by
  decide

theorem test_subc_borrow_in :
    goesOn (runWord 0x310A#16 (State.setT (State.setR (State.setR (vec 0x700000F0#32) 0x0 0xFFFFFFFF#32) 0x1 0x0#32) true)) (fun t => t.r 0x1 == 0x0#32 && t.tBit == true) = true := by
  decide

theorem test_subv_underflow :
    goesOn (runWord 0x310B#16 (State.setR (State.setR (vec 0x700000F0#32) 0x0 0x2#32) 0x1 0x80000001#32)) (fun t => t.r 0x1 == 0x7FFFFFFF#32 && t.tBit == true) = true := by
  decide

theorem test_mac_l_wraps :
    goesOn (runWord 0x010F#16 (State.poke (State.poke (State.setS (State.setR (State.setR { vec 0x700000F0#32 with mach := 0x7FFFFFFF#32, macl := 0xFFFFFFFF#32 } 0x0 0x2010#32) 0x1 0x2000#32) false) 0x2000#32 [0x7F, 0xFF, 0xFF, 0xFF]) 0x2010#32 [0x7F, 0xFF, 0xFF, 0xFF])) (fun t => t.macl == 0x0#32 && t.r 0x0 == 0x2014#32 && t.r 0x1 == 0x2004#32 && t.mach == 0xBFFFFFFF#32) = true := by
  decide

theorem test_mac_l_saturates :
    goesOn (runWord 0x010F#16 (State.poke (State.poke (State.setS (State.setR (State.setR { vec 0x700000F0#32 with mach := 0xABCD0000#32, macl := 0x0#32 } 0x0 0x2010#32) 0x1 0x2000#32) true) 0x2000#32 [0x7F, 0xFF, 0xFF, 0xFF]) 0x2010#32 [0x7F, 0xFF, 0xFF, 0xFF])) (fun t => t.macl == 0xFFFFFFFF#32 && t.r 0x0 == 0x2014#32 && t.r 0x1 == 0x2004#32 && t.mach == 0xABCD7FFF#32) = true := by
  decide

theorem test_mac_w_wide :
    goesOn (runWord 0x410F#16 (State.poke (State.poke (State.setS (State.setR (State.setR { vec 0x700000F0#32 with mach := 0x55#32, macl := 0xFFFFFFFF#32 } 0x0 0x2010#32) 0x1 0x2000#32) false) 0x2000#32 [0x7F, 0xFF]) 0x2010#32 [0x7F, 0xFF])) (fun t => t.macl == 0x3FFF0000#32 && t.r 0x0 == 0x2012#32 && t.r 0x1 == 0x2002#32 && t.mach == 0x56#32) = true := by
  decide

theorem test_mac_w_saturates :
    goesOn (runWord 0x410F#16 (State.poke (State.poke (State.setS (State.setR (State.setR { vec 0x700000F0#32 with mach := 0x54#32, macl := 0x7FFFFFFF#32 } 0x0 0x2010#32) 0x1 0x2000#32) true) 0x2000#32 [0x7F, 0xFF]) 0x2010#32 [0x7F, 0xFF])) (fun t => t.macl == 0x7FFFFFFF#32 && t.r 0x0 == 0x2012#32 && t.r 0x1 == 0x2002#32) = true := by
  decide

theorem test_logical_registers :
    (goesOn (runWord 0x2109#16 (State.setR (State.setR (vec 0x700000F0#32) 0x0 0xAAAAAAAA#32) 0x1 0x55555555#32)) (fun t => t.r 0x1 == 0x0#32) &&
      goesOn (runWord 0xC9FF#16 (State.setR (vec 0x700000F0#32) 0x0 0x12345678#32)) (fun t => t.r 0x0 == 0x78#32) &&
      goesOn (runWord 0x6107#16 (State.setR (vec 0x700000F0#32) 0x0 0xAAAAAAAA#32)) (fun t => t.r 0x1 == 0x55555555#32) &&
      goesOn (runWord 0x210B#16 (State.setR (State.setR (vec 0x700000F0#32) 0x0 0xAAAA5555#32) 0x1 0x55550000#32)) (fun t => t.r 0x1 == 0xFFFF5555#32) &&
      goesOn (runWord 0xCBF0#16 (State.setR (vec 0x700000F0#32) 0x0 0x8#32)) (fun t => t.r 0x0 == 0xF8#32) &&
      goesOn (runWord 0x210A#16 (State.setR (State.setR (vec 0x700000F0#32) 0x0 0xAAAAAAAA#32) 0x1 0x55555555#32)) (fun t => t.r 0x1 == 0xFFFFFFFF#32) &&
      goesOn (runWord 0xCAF0#16 (State.setR (vec 0x700000F0#32) 0x0 0xFFFFFFFF#32)) (fun t => t.r 0x0 == 0xFFFFFF0F#32)) = true := by
  decide

theorem test_logical_bytes :
    (goesOn (runWord 0xCD0F#16 (State.poke (State.setR { vec 0x700000F0#32 with gbr := 0x2001#32 } 0x0 0xFFFFFFFF#32) 0x2000#32 [0xA5])) (fun t => t.holds 0x2000#32 == some 0x05#8) &&
      goesOn (runWord 0xCF50#16 (State.poke (State.setR { vec 0x700000F0#32 with gbr := 0x2000#32 } 0x0 0x10#32) 0x2010#32 [0xA5])) (fun t => t.holds 0x2010#32 == some 0xF5#8) &&
      goesOn (runWord 0xCC5A#16 (State.poke (State.setR { vec 0x700000F0#32 with gbr := 0x2000#32 } 0x0 0x10#32) 0x2010#32 [0xA5])) (fun t => t.tBit == true && t.holds 0x2010#32 == some 0xA5#8) &&
      goesOn (runWord 0xCEA5#16 (State.poke (State.setR { vec 0x700000F0#32 with gbr := 0x2000#32 } 0x0 0x10#32) 0x2010#32 [0xA5])) (fun t => t.holds 0x2010#32 == some 0x00#8)) = true := by
  decide

theorem test_tas_sets :
    goesOn (runWord 0x441B#16 (State.poke (State.setR (vec 0x700000F0#32) 0x4 0x2000#32) 0x2000#32 [0x00])) (fun t => t.tBit == true && t.holds 0x2000#32 == some 0x80#8) = true := by
  decide

theorem test_tas_again :
    goesOn (runWord 0x441B#16 (State.setT (State.poke (State.setR (vec 0x700000F0#32) 0x4 0x2000#32) 0x2000#32 [0x01]) true)) (fun t => t.tBit == false && t.holds 0x2000#32 == some 0x81#8) = true := by
  decide

theorem test_tst :
    (goesOn (runWord 0x2108#16 (State.setT (State.setR (State.setR (vec 0x700000F0#32) 0x0 0xF0F0F0F#32) 0x1 0xF0F0F0F1#32) true)) (fun t => t.tBit == false) &&
      goesOn (runWord 0xC880#16 (State.setR (vec 0x700000F0#32) 0x0 0xFFFFFF7F#32)) (fun t => t.tBit == true)) = true := by
  decide

theorem test_bf_back :
    goesOn (runWord 0x8B80#16 { vec 0x700000F0#32 with pc := 0x2000#32 }) (fun t => t.pc == 0x1F04#32) = true := by
  decide

theorem test_bf_not_taken :
    goesOn (runWord 0x8B80#16 (State.setT { vec 0x700000F0#32 with pc := 0x2000#32 } true)) (fun t => t.pc == 0x2002#32) = true := by
  decide

theorem test_bt_forward :
    goesOn (runWord 0x897F#16 (State.setT (vec 0x700000F0#32) true)) (fun t => t.pc == 0x1102#32) = true := by
  decide

theorem test_bf_s_taken :
    goesOn (runWord 0x8F02#16 (vec 0x700000F0#32)) (fun t => t.pc == 0x1002#32 && t.pending.map (·.target) == some 0x1008#32) = true := by
  decide

theorem test_bf_s_not_taken :
    goesOn (runWord 0x8F02#16 (State.setT (vec 0x700000F0#32) true)) (fun t => t.pc == 0x1002#32 && t.pending.map (·.target) == some 0x1004#32) = true := by
  decide

theorem test_bt_s_taken :
    goesOn (runWord 0x8DFF#16 (State.setT (vec 0x700000F0#32) true)) (fun t => t.pc == 0x1002#32 && t.pending.map (·.target) == some 0x1002#32) = true := by
  decide

theorem test_bra_far :
    goesOn (runWord 0xA800#16 { vec 0x700000F0#32 with pc := 0x2000#32 }) (fun t => t.pc == 0x2002#32 && t.pending.map (·.target) == some 0x1004#32) = true := by
  decide

theorem test_braf_negative :
    goesOn (runWord 0x0023#16 (State.setR (vec 0x700000F0#32) 0x0 0xFFFFFFFC#32)) (fun t => t.pc == 0x1002#32 && t.pending.map (·.target) == some 0x1000#32) = true := by
  decide

theorem test_jmp_reg :
    goesOn (runWord 0x432B#16 (State.setR (vec 0x700000F0#32) 0x3 0x12345678#32)) (fun t => t.pc == 0x1002#32 && t.pending.map (·.target) == some 0x12345678#32) = true := by
  decide

theorem test_rts_pr :
    goesOn (runWord 0x000B#16 { vec 0x700000F0#32 with pr := 0x2004#32 }) (fun t => t.pc == 0x1002#32 && t.pending.map (·.target) == some 0x2004#32 && t.pr == 0x2004#32) = true := by
  decide

theorem test_bsr_link :
    goesOn (runWord 0xB010#16 (vec 0x700000F0#32)) (fun t => t.pr == 0x1004#32 && t.pending.map (·.target) == some 0x1024#32) = true := by
  decide

theorem test_bsrf_link :
    goesOn (runWord 0x0003#16 (State.setR (vec 0x700000F0#32) 0x0 0x200#32)) (fun t => t.pr == 0x1004#32 && t.pending.map (·.target) == some 0x1204#32) = true := by
  decide

theorem test_jsr_link :
    goesOn (runWord 0x400B#16 (State.setR (vec 0x700000F0#32) 0x0 0x3000#32)) (fun t => t.pr == 0x1004#32 && t.pending.map (·.target) == some 0x3000#32) = true := by
  decide

theorem test_flag_instructions :
    (goesOn (runWord 0x0028#16 { vec 0x700000F0#32 with mach := 0x5#32, macl := 0x6#32 }) (fun t => t.mach == 0x0#32 && t.macl == 0x0#32) &&
      goesOn (runWord 0x0048#16 (vec 0x700000F2#32)) (fun t => t.sr == 0x700000F0#32) &&
      goesOn (runWord 0x0008#16 (vec 0x700000F1#32)) (fun t => t.sr == 0x700000F0#32) &&
      goesOn (runWord 0x0058#16 (vec 0x700000F0#32)) (fun t => t.sr == 0x700000F2#32) &&
      goesOn (runWord 0x0018#16 (vec 0x700000F0#32)) (fun t => t.sr == 0x700000F1#32) &&
      goesOn (runWord 0x0009#16 (vec 0x700000F0#32)) (fun t => t.sr == 0x700000F0#32 && t.pc == 0x1002#32)) = true := by
  decide

theorem test_ldc_registers :
    (goesOn (runWord 0x411E#16 (State.setR (vec 0x700000F0#32) 0x1 0xFFFF8001#32)) (fun t => t.gbr == 0xFFFF8001#32) &&
      goesOn (runWord 0x412E#16 (State.setR (vec 0x700000F0#32) 0x1 0xFFFF8001#32)) (fun t => t.vbr == 0xFFFF8001#32) &&
      goesOn (runWord 0x413A#16 (State.setR (vec 0x700000F0#32) 0x1 0xFFFF8001#32)) (fun t => t.sgr == 0xFFFF8001#32) &&
      goesOn (runWord 0x413E#16 (State.setR (vec 0x700000F0#32) 0x1 0xFFFF8001#32)) (fun t => t.ssr == 0xFFFF8001#32) &&
      goesOn (runWord 0x414E#16 (State.setR (vec 0x700000F0#32) 0x1 0xFFFF8001#32)) (fun t => t.spc == 0xFFFF8001#32) &&
      goesOn (runWord 0x41FA#16 (State.setR (vec 0x700000F0#32) 0x1 0xFFFF8001#32)) (fun t => t.dbr == 0xFFFF8001#32) &&
      goesOn (runWord 0x435E#16 (State.setR (vec 0x700010F0#32) 0x3 0x12345678#32)) (fun t => t.mod == 0x12345678#32) &&
      goesOn (runWord 0x436E#16 (State.setR (vec 0x700010F0#32) 0x3 0x12345678#32)) (fun t => t.rs == 0x12345678#32) &&
      goesOn (runWord 0x437E#16 (State.setR (vec 0x700010F0#32) 0x3 0x12345678#32)) (fun t => t.re == 0x12345678#32)) = true := by
  decide

theorem test_lds_registers :
    (goesOn (runWord 0x410A#16 (State.setR (vec 0x700000F0#32) 0x1 0xFFFF8001#32)) (fun t => t.mach == 0xFFFF8001#32) &&
      goesOn (runWord 0x411A#16 (State.setR (vec 0x700000F0#32) 0x1 0xFFFF8001#32)) (fun t => t.macl == 0xFFFF8001#32) &&
      goesOn (runWord 0x412A#16 (State.setR (vec 0x700000F0#32) 0x1 0xFFFF8001#32)) (fun t => t.pr == 0xFFFF8001#32) &&
      goesOn (runWord 0x438A#16 (State.setR (vec 0x700010F0#32) 0x3 0x12345678#32)) (fun t => t.x0 == 0x12345678#32) &&
      goesOn (runWord 0x439A#16 (State.setR (vec 0x700010F0#32) 0x3 0x12345678#32)) (fun t => t.x1 == 0x12345678#32) &&
      goesOn (runWord 0x43AA#16 (State.setR (vec 0x700010F0#32) 0x3 0x12345678#32)) (fun t => t.y0 == 0x12345678#32) &&
      goesOn (runWord 0x43BA#16 (State.setR (vec 0x700010F0#32) 0x3 0x12345678#32)) (fun t => t.y1 == 0x12345678#32)) = true := by
  decide

theorem test_ldc_l_registers :
    (goesOn (runWord 0x4F17#16 (State.poke (State.setR (vec 0x700000F0#32) 0xF 0x2000#32) 0x2000#32 [0xCA, 0xFE, 0xBA, 0xBE])) (fun t => t.gbr == 0xCAFEBABE#32 && t.r 0xF == 0x2004#32) &&
      goesOn (runWord 0x4F27#16 (State.poke (State.setR (vec 0x700000F0#32) 0xF 0x2000#32) 0x2000#32 [0xCA, 0xFE, 0xBA, 0xBE])) (fun t => t.vbr == 0xCAFEBABE#32 && t.r 0xF == 0x2004#32) &&
      goesOn (runWord 0x4F36#16 (State.poke (State.setR (vec 0x700000F0#32) 0xF 0x2000#32) 0x2000#32 [0xCA, 0xFE, 0xBA, 0xBE])) (fun t => t.sgr == 0xCAFEBABE#32 && t.r 0xF == 0x2004#32) &&
      goesOn (runWord 0x4F37#16 (State.poke (State.setR (vec 0x700000F0#32) 0xF 0x2000#32) 0x2000#32 [0xCA, 0xFE, 0xBA, 0xBE])) (fun t => t.ssr == 0xCAFEBABE#32 && t.r 0xF == 0x2004#32) &&
      goesOn (runWord 0x4F47#16 (State.poke (State.setR (vec 0x700000F0#32) 0xF 0x2000#32) 0x2000#32 [0xCA, 0xFE, 0xBA, 0xBE])) (fun t => t.spc == 0xCAFEBABE#32 && t.r 0xF == 0x2004#32) &&
      goesOn (runWord 0x4FF6#16 (State.poke (State.setR (vec 0x700000F0#32) 0xF 0x2000#32) 0x2000#32 [0xCA, 0xFE, 0xBA, 0xBE])) (fun t => t.dbr == 0xCAFEBABE#32 && t.r 0xF == 0x2004#32) &&
      goesOn (runWord 0x4357#16 (State.poke (State.setR (vec 0x700010F0#32) 0x3 0x2000#32) 0x2000#32 [0x12, 0x34, 0x56, 0x78])) (fun t => t.mod == 0x12345678#32 && t.r 0x3 == 0x2004#32) &&
      goesOn (runWord 0x4367#16 (State.poke (State.setR (vec 0x700010F0#32) 0x3 0x2000#32) 0x2000#32 [0x12, 0x34, 0x56, 0x78])) (fun t => t.rs == 0x12345678#32 && t.r 0x3 == 0x2004#32) &&
      goesOn (runWord 0x4377#16 (State.poke (State.setR (vec 0x700010F0#32) 0x3 0x2000#32) 0x2000#32 [0x12, 0x34, 0x56, 0x78])) (fun t => t.re == 0x12345678#32 && t.r 0x3 == 0x2004#32)) = true := by
  decide

theorem test_lds_l_registers :
    (goesOn (runWord 0x4F06#16 (State.poke (State.setR (vec 0x700000F0#32) 0xF 0x2000#32) 0x2000#32 [0xCA, 0xFE, 0xBA, 0xBE])) (fun t => t.mach == 0xCAFEBABE#32 && t.r 0xF == 0x2004#32) &&
      goesOn (runWord 0x4F16#16 (State.poke (State.setR (vec 0x700000F0#32) 0xF 0x2000#32) 0x2000#32 [0xCA, 0xFE, 0xBA, 0xBE])) (fun t => t.macl == 0xCAFEBABE#32 && t.r 0xF == 0x2004#32) &&
      goesOn (runWord 0x4F26#16 (State.poke (State.setR (vec 0x700000F0#32) 0xF 0x2000#32) 0x2000#32 [0xCA, 0xFE, 0xBA, 0xBE])) (fun t => t.pr == 0xCAFEBABE#32 && t.r 0xF == 0x2004#32) &&
      goesOn (runWord 0x4386#16 (State.poke (State.setR (vec 0x700010F0#32) 0x3 0x2000#32) 0x2000#32 [0x12, 0x34, 0x56, 0x78])) (fun t => t.x0 == 0x12345678#32 && t.r 0x3 == 0x2004#32) &&
      goesOn (runWord 0x4396#16 (State.poke (State.setR (vec 0x700010F0#32) 0x3 0x2000#32) 0x2000#32 [0x12, 0x34, 0x56, 0x78])) (fun t => t.x1 == 0x12345678#32 && t.r 0x3 == 0x2004#32) &&
      goesOn (runWord 0x43A6#16 (State.poke (State.setR (vec 0x700010F0#32) 0x3 0x2000#32) 0x2000#32 [0x12, 0x34, 0x56, 0x78])) (fun t => t.y0 == 0x12345678#32 && t.r 0x3 == 0x2004#32) &&
      goesOn (runWord 0x43B6#16 (State.poke (State.setR (vec 0x700010F0#32) 0x3 0x2000#32) 0x2000#32 [0x12, 0x34, 0x56, 0x78])) (fun t => t.y1 == 0x12345678#32 && t.r 0x3 == 0x2004#32)) = true := by
  decide

theorem test_stc_registers :
    (goesOn (runWord 0x0212#16 { vec 0x700000F0#32 with gbr := 0x8000001F#32 }) (fun t => t.r 0x2 == 0x8000001F#32) &&
      goesOn (runWord 0x0222#16 { vec 0x700000F0#32 with vbr := 0x8000001F#32 }) (fun t => t.r 0x2 == 0x8000001F#32) &&
      goesOn (runWord 0x023A#16 { vec 0x700000F0#32 with sgr := 0x8000001F#32 }) (fun t => t.r 0x2 == 0x8000001F#32) &&
      goesOn (runWord 0x0232#16 { vec 0x700000F0#32 with ssr := 0x8000001F#32 }) (fun t => t.r 0x2 == 0x8000001F#32) &&
      goesOn (runWord 0x0242#16 { vec 0x700000F0#32 with spc := 0x8000001F#32 }) (fun t => t.r 0x2 == 0x8000001F#32) &&
      goesOn (runWord 0x02FA#16 { vec 0x700000F0#32 with dbr := 0x8000001F#32 }) (fun t => t.r 0x2 == 0x8000001F#32) &&
      goesOn (runWord 0x0402#16 (vec 0x10F1#32)) (fun t => t.r 0x4 == 0x10F1#32) &&
      goesOn (runWord 0x0352#16 { vec 0x700010F0#32 with mod := 0x12345678#32 }) (fun t => t.r 0x3 == 0x12345678#32) &&
      goesOn (runWord 0x0362#16 { vec 0x700010F0#32 with rs := 0x12345678#32 }) (fun t => t.r 0x3 == 0x12345678#32) &&
      goesOn (runWord 0x0372#16 { vec 0x700010F0#32 with re := 0x12345678#32 }) (fun t => t.r 0x3 == 0x12345678#32)) = true := by
  decide

theorem test_sts_registers :
    (goesOn (runWord 0x020A#16 { vec 0x700000F0#32 with mach := 0x8000001F#32 }) (fun t => t.r 0x2 == 0x8000001F#32) &&
      goesOn (runWord 0x021A#16 { vec 0x700000F0#32 with macl := 0x8000001F#32 }) (fun t => t.r 0x2 == 0x8000001F#32) &&
      goesOn (runWord 0x022A#16 { vec 0x700000F0#32 with pr := 0x8000001F#32 }) (fun t => t.r 0x2 == 0x8000001F#32) &&
      goesOn (runWord 0x036A#16 { vec 0x700010F0#32 with dsr := 0x12345678#32 }) (fun t => t.r 0x3 == 0x12345678#32) &&
      goesOn (runWord 0x037A#16 { vec 0x700010F0#32 with a0 := 0x12345678#32 }) (fun t => t.r 0x3 == 0x12345678#32) &&
      goesOn (runWord 0x038A#16 { vec 0x700010F0#32 with x0 := 0x12345678#32 }) (fun t => t.r 0x3 == 0x12345678#32) &&
      goesOn (runWord 0x039A#16 { vec 0x700010F0#32 with x1 := 0x12345678#32 }) (fun t => t.r 0x3 == 0x12345678#32) &&
      goesOn (runWord 0x03AA#16 { vec 0x700010F0#32 with y0 := 0x12345678#32 }) (fun t => t.r 0x3 == 0x12345678#32) &&
      goesOn (runWord 0x03BA#16 { vec 0x700010F0#32 with y1 := 0x12345678#32 }) (fun t => t.r 0x3 == 0x12345678#32)) = true := by
  decide

theorem test_stc_l_registers :
    (goesOn (runWord 0x4F13#16 (State.setR { vec 0x700000F0#32 with gbr := 0x1020304#32 } 0xF 0x2004#32)) (fun t => t.holds 0x2000#32 == some 0x01#8 && t.holds 0x2001#32 == some 0x02#8 && t.holds 0x2002#32 == some 0x03#8 && t.holds 0x2003#32 == some 0x04#8 && t.r 0xF == 0x2000#32) &&
      goesOn (runWord 0x4F23#16 (State.setR { vec 0x700000F0#32 with vbr := 0x1020304#32 } 0xF 0x2004#32)) (fun t => t.holds 0x2000#32 == some 0x01#8 && t.holds 0x2001#32 == some 0x02#8 && t.holds 0x2002#32 == some 0x03#8 && t.holds 0x2003#32 == some 0x04#8 && t.r 0xF == 0x2000#32) &&
      goesOn (runWord 0x4F32#16 (State.setR { vec 0x700000F0#32 with sgr := 0x1020304#32 } 0xF 0x2004#32)) (fun t => t.holds 0x2000#32 == some 0x01#8 && t.holds 0x2001#32 == some 0x02#8 && t.holds 0x2002#32 == some 0x03#8 && t.holds 0x2003#32 == some 0x04#8 && t.r 0xF == 0x2000#32) &&
      goesOn (runWord 0x4F33#16 (State.setR { vec 0x700000F0#32 with ssr := 0x1020304#32 } 0xF 0x2004#32)) (fun t => t.holds 0x2000#32 == some 0x01#8 && t.holds 0x2001#32 == some 0x02#8 && t.holds 0x2002#32 == some 0x03#8 && t.holds 0x2003#32 == some 0x04#8 && t.r 0xF == 0x2000#32) &&
      goesOn (runWord 0x4F43#16 (State.setR { vec 0x700000F0#32 with spc := 0x1020304#32 } 0xF 0x2004#32)) (fun t => t.holds 0x2000#32 == some 0x01#8 && t.holds 0x2001#32 == some 0x02#8 && t.holds 0x2002#32 == some 0x03#8 && t.holds 0x2003#32 == some 0x04#8 && t.r 0xF == 0x2000#32) &&
      goesOn (runWord 0x4FF2#16 (State.setR { vec 0x700000F0#32 with dbr := 0x1020304#32 } 0xF 0x2004#32)) (fun t => t.holds 0x2000#32 == some 0x01#8 && t.holds 0x2001#32 == some 0x02#8 && t.holds 0x2002#32 == some 0x03#8 && t.holds 0x2003#32 == some 0x04#8 && t.r 0xF == 0x2000#32) &&
      goesOn (runWord 0x4F03#16 (State.setR (vec 0x700000F0#32) 0xF 0x2008#32)) (fun t => t.r 0xF == 0x2004#32 && t.holds 0x2004#32 == some 0x70#8 && t.holds 0x2005#32 == some 0x00#8 && t.holds 0x2006#32 == some 0x00#8 && t.holds 0x2007#32 == some 0xF0#8) &&
      goesOn (runWord 0x4F53#16 (State.setR { vec 0x700010F0#32 with mod := 0x12345678#32 } 0xF 0x2008#32)) (fun t => t.r 0xF == 0x2004#32 && t.holds 0x2004#32 == some 0x12#8 && t.holds 0x2005#32 == some 0x34#8 && t.holds 0x2006#32 == some 0x56#8 && t.holds 0x2007#32 == some 0x78#8) &&
      goesOn (runWord 0x4F63#16 (State.setR { vec 0x700010F0#32 with rs := 0x12345678#32 } 0xF 0x2008#32)) (fun t => t.r 0xF == 0x2004#32 && t.holds 0x2004#32 == some 0x12#8 && t.holds 0x2005#32 == some 0x34#8 && t.holds 0x2006#32 == some 0x56#8 && t.holds 0x2007#32 == some 0x78#8) &&
      goesOn (runWord 0x4F73#16 (State.setR { vec 0x700010F0#32 with re := 0x12345678#32 } 0xF 0x2008#32)) (fun t => t.r 0xF == 0x2004#32 && t.holds 0x2004#32 == some 0x12#8 && t.holds 0x2005#32 == some 0x34#8 && t.holds 0x2006#32 == some 0x56#8 && t.holds 0x2007#32 == some 0x78#8)) = true := by
  decide

theorem test_sts_l_registers :
    (goesOn (runWord 0x4F02#16 (State.setR { vec 0x700000F0#32 with mach := 0x1020304#32 } 0xF 0x2004#32)) (fun t => t.holds 0x2000#32 == some 0x01#8 && t.holds 0x2001#32 == some 0x02#8 && t.holds 0x2002#32 == some 0x03#8 && t.holds 0x2003#32 == some 0x04#8 && t.r 0xF == 0x2000#32) &&
      goesOn (runWord 0x4F12#16 (State.setR { vec 0x700000F0#32 with macl := 0x1020304#32 } 0xF 0x2004#32)) (fun t => t.holds 0x2000#32 == some 0x01#8 && t.holds 0x2001#32 == some 0x02#8 && t.holds 0x2002#32 == some 0x03#8 && t.holds 0x2003#32 == some 0x04#8 && t.r 0xF == 0x2000#32) &&
      goesOn (runWord 0x4F22#16 (State.setR { vec 0x700000F0#32 with pr := 0x1020304#32 } 0xF 0x2004#32)) (fun t => t.holds 0x2000#32 == some 0x01#8 && t.holds 0x2001#32 == some 0x02#8 && t.holds 0x2002#32 == some 0x03#8 && t.holds 0x2003#32 == some 0x04#8 && t.r 0xF == 0x2000#32) &&
      goesOn (runWord 0x4F62#16 (State.setR { vec 0x700010F0#32 with dsr := 0x12345678#32 } 0xF 0x2008#32)) (fun t => t.r 0xF == 0x2004#32 && t.holds 0x2004#32 == some 0x12#8 && t.holds 0x2005#32 == some 0x34#8 && t.holds 0x2006#32 == some 0x56#8 && t.holds 0x2007#32 == some 0x78#8) &&
      goesOn (runWord 0x4F72#16 (State.setR { vec 0x700010F0#32 with a0 := 0x12345678#32 } 0xF 0x2008#32)) (fun t => t.r 0xF == 0x2004#32 && t.holds 0x2004#32 == some 0x12#8 && t.holds 0x2005#32 == some 0x34#8 && t.holds 0x2006#32 == some 0x56#8 && t.holds 0x2007#32 == some 0x78#8) &&
      goesOn (runWord 0x4F82#16 (State.setR { vec 0x700010F0#32 with x0 := 0x12345678#32 } 0xF 0x2008#32)) (fun t => t.r 0xF == 0x2004#32 && t.holds 0x2004#32 == some 0x12#8 && t.holds 0x2005#32 == some 0x34#8 && t.holds 0x2006#32 == some 0x56#8 && t.holds 0x2007#32 == some 0x78#8) &&
      goesOn (runWord 0x4F92#16 (State.setR { vec 0x700010F0#32 with x1 := 0x12345678#32 } 0xF 0x2008#32)) (fun t => t.r 0xF == 0x2004#32 && t.holds 0x2004#32 == some 0x12#8 && t.holds 0x2005#32 == some 0x34#8 && t.holds 0x2006#32 == some 0x56#8 && t.holds 0x2007#32 == some 0x78#8) &&
      goesOn (runWord 0x4FA2#16 (State.setR { vec 0x700010F0#32 with y0 := 0x12345678#32 } 0xF 0x2008#32)) (fun t => t.r 0xF == 0x2004#32 && t.holds 0x2004#32 == some 0x12#8 && t.holds 0x2005#32 == some 0x34#8 && t.holds 0x2006#32 == some 0x56#8 && t.holds 0x2007#32 == some 0x78#8) &&
      goesOn (runWord 0x4FB2#16 (State.setR { vec 0x700010F0#32 with y1 := 0x12345678#32 } 0xF 0x2008#32)) (fun t => t.r 0xF == 0x2004#32 && t.holds 0x2004#32 == some 0x12#8 && t.holds 0x2005#32 == some 0x34#8 && t.holds 0x2006#32 == some 0x56#8 && t.holds 0x2007#32 == some 0x78#8)) = true := by
  decide

theorem test_ldc_bank :
    goesOn (runWord 0x44BE#16 (State.setR (State.setR (vec 0x700000F0#32) 0x4 0xAA#32) 0x3 0x7#32)) (fun t => t.bankR 3 == 0xAA#32 && t.r 0x3 == 0x7#32) = true := by
  decide

theorem test_ldc_l_bank :
    goesOn (runWord 0x4FF7#16 (State.setR (State.poke (State.setR (vec 0x700000F0#32) 0xF 0x2000#32) 0x2000#32 [0xCA, 0xFE, 0xBA, 0xBE]) 0x7 0x1#32)) (fun t => t.bankR 7 == 0xCAFEBABE#32 && t.r 0x7 == 0x1#32 && t.r 0xF == 0x2004#32) = true := by
  decide

theorem test_stc_bank :
    goesOn (runWord 0x0292#16 (State.setBankR (vec 0x700000F0#32) 1 0xBEEF#32)) (fun t => t.r 0x2 == 0xBEEF#32) = true := by
  decide

theorem test_stc_l_bank :
    goesOn (runWord 0x4F83#16 (State.setR (State.setBankR (vec 0x700000F0#32) 0 0xC0FFEE#32) 0xF 0x2004#32)) (fun t => t.holds 0x2000#32 == some 0x00#8 && t.holds 0x2001#32 == some 0xC0#8 && t.holds 0x2002#32 == some 0xFF#8 && t.holds 0x2003#32 == some 0xEE#8 && t.r 0xF == 0x2000#32) = true := by
  decide

theorem test_sleep :
    goesOn (runWord 0x001B#16 (vec 0x700000F0#32)) (fun t => t.pc == 0x1002#32 && t.asleep) = true := by
  decide

theorem test_trapa :
    entersAt (runWord 0xC320#16) (State.setR { vec 0xF0#32 with ldst := true } 0xF 0x7000#32) 0x160#32 0x1002#32 (fun t => t.tra == 0x80#32 && t.ssr == 0xF0#32) = true := by
  decide

theorem test_trapa_blocked :
    faultsWith (runWord 0xC301#16 (vec 0x500000F0#32)) (.exceptionWithBlSet .unconditionalTrap) = true := by
  decide

theorem test_rte :
    goesOn (runWord 0x002B#16 { vec 0x700000F0#32 with ssr := 0xFFFFFFFF#32, spc := 0x1000#32 }) (fun t => t.sr == 0x7FFF1FFF#32 && t.pc == 0x1002#32 && t.pending.map (·.target) == some 0x1000#32) = true := by
  decide

theorem test_privileged_in_user_mode :
    (entersAt (runWord 0x400E#16) (vec 0xF0#32) 0x180#32 0x1000#32 (fun t => t.asleep == false) &&
      entersAt (runWord 0x0402#16) (vec 0xF0#32) 0x180#32 0x1000#32 (fun t => t.asleep == false) &&
      entersAt (runWord 0x002B#16) (vec 0xF0#32) 0x180#32 0x1000#32 (fun t => t.asleep == false) &&
      entersAt (runWord 0x001B#16) (vec 0xF0#32) 0x180#32 0x1000#32 (fun t => t.asleep == false) &&
      entersAt (runWord 0x0038#16) (vec 0xF0#32) 0x180#32 0x1000#32 (fun t => t.asleep == false)) = true := by
  decide

theorem test_register_moves :
    (goesOn (runWord 0x6103#16 (State.setR (vec 0x700000F0#32) 0x0 0xFFFFFFFF#32)) (fun t => t.r 0x1 == 0xFFFFFFFF#32) &&
      goesOn (runWord 0xE780#16 (vec 0x700000F0#32)) (fun t => t.r 0x7 == 0xFFFFFF80#32) &&
      goesOn (runWord 0xC701#16 { vec 0x700000F0#32 with pc := 0x1006#32 }) (fun t => t.r 0x0 == 0x100C#32) &&
      goesOn (runWord 0x0029#16 (State.setR (State.setT (vec 0x700000F0#32) true) 0x0 0xFFFFFFFF#32)) (fun t => t.r 0x0 == 0x1#32) &&
      goesOn (runWord 0x6108#16 (State.setR (vec 0x700000F0#32) 0x0 0x12345678#32)) (fun t => t.r 0x1 == 0x12347856#32) &&
      goesOn (runWord 0x6109#16 (State.setR (vec 0x700000F0#32) 0x0 0x12345678#32)) (fun t => t.r 0x1 == 0x56781234#32) &&
      goesOn (runWord 0x210D#16 (State.setR (State.setR (vec 0x700000F0#32) 0x0 0x1234567#32) 0x1 0x89ABCDEF#32)) (fun t => t.r 0x1 == 0x456789AB#32)) = true := by
  decide

theorem test_stores_b :
    (goesOn (runWord 0x2100#16 (State.setR (State.setR (vec 0x700000F0#32) 0x0 0xFFFF7F80#32) 0x1 0x2001#32)) (fun t => t.holds 0x2001#32 == some 0x80#8) &&
      goesOn (runWord 0x2114#16 (State.setR (vec 0x700000F0#32) 0x1 0x2001#32)) (fun t => t.holds 0x2000#32 == some 0x01#8 && t.r 0x1 == 0x2000#32) &&
      goesOn (runWord 0x0214#16 (State.setR (State.setR (State.setR (vec 0x700000F0#32) 0x2 0x4#32) 0x0 0x2000#32) 0x1 0x5A#32)) (fun t => t.holds 0x2004#32 == some 0x5A#8) &&
      goesOn (runWord 0xC001#16 (State.setR { vec 0x700000F0#32 with gbr := 0x2000#32 } 0x0 0xFFFF7F80#32)) (fun t => t.holds 0x2001#32 == some 0x80#8) &&
      goesOn (runWord 0x8043#16 (State.setR (State.setR (vec 0x700000F0#32) 0x0 0x12345634#32) 0x4 0x2000#32)) (fun t => t.holds 0x2003#32 == some 0x34#8)) = true := by
  decide

theorem test_stores_w :
    (goesOn (runWord 0x2101#16 (State.setR (State.setR (vec 0x700000F0#32) 0x0 0xFFFF7F80#32) 0x1 0x2002#32)) (fun t => t.holds 0x2002#32 == some 0x7F#8 && t.holds 0x2003#32 == some 0x80#8) &&
      goesOn (runWord 0x2105#16 (State.setR (State.setR (vec 0x700000F0#32) 0x0 0xAAAAAAAA#32) 0x1 0x2002#32)) (fun t => t.holds 0x2000#32 == some 0xAA#8 && t.holds 0x2001#32 == some 0xAA#8 && t.r 0x1 == 0x2000#32) &&
      goesOn (runWord 0x0215#16 (State.setR (State.setR (State.setR (vec 0x700000F0#32) 0x0 0xFFFFFFFE#32) 0x2 0x2002#32) 0x1 0xBEEF#32)) (fun t => t.holds 0x2000#32 == some 0xBE#8 && t.holds 0x2001#32 == some 0xEF#8) &&
      goesOn (runWord 0xC101#16 (State.setR { vec 0x700000F0#32 with gbr := 0x2000#32 } 0x0 0xFFFF7F80#32)) (fun t => t.holds 0x2002#32 == some 0x7F#8 && t.holds 0x2003#32 == some 0x80#8) &&
      goesOn (runWord 0x8143#16 (State.setR (State.setR (vec 0x700000F0#32) 0x0 0x12345678#32) 0x4 0x2000#32)) (fun t => t.holds 0x2006#32 == some 0x56#8 && t.holds 0x2007#32 == some 0x78#8)) = true := by
  decide

theorem test_stores_l :
    (goesOn (runWord 0x2102#16 (State.setR (State.setR (vec 0x700000F0#32) 0x0 0x12345678#32) 0x1 0x2004#32)) (fun t => t.holds 0x2004#32 == some 0x12#8 && t.holds 0x2007#32 == some 0x78#8) &&
      goesOn (runWord 0x2FF6#16 (State.setR (vec 0x700000F0#32) 0xF 0x2008#32)) (fun t => t.holds 0x2004#32 == some 0x00#8 && t.holds 0x2005#32 == some 0x00#8 && t.holds 0x2006#32 == some 0x20#8 && t.holds 0x2007#32 == some 0x08#8 && t.r 0xF == 0x2004#32) &&
      goesOn (runWord 0x0216#16 (State.setR (State.setR (State.setR (vec 0x700000F0#32) 0x0 0x10#32) 0x2 0x2000#32) 0x1 0xDEADBEEF#32)) (fun t => t.holds 0x2010#32 == some 0xDE#8 && t.holds 0x2011#32 == some 0xAD#8 && t.holds 0x2012#32 == some 0xBE#8 && t.holds 0x2013#32 == some 0xEF#8) &&
      goesOn (runWord 0xC201#16 (State.setR { vec 0x700000F0#32 with gbr := 0x2000#32 } 0x0 0xFFFF7F80#32)) (fun t => t.holds 0x2004#32 == some 0xFF#8 && t.holds 0x2005#32 == some 0xFF#8 && t.holds 0x2006#32 == some 0x7F#8 && t.holds 0x2007#32 == some 0x80#8) &&
      goesOn (runWord 0x110F#16 (State.setR (State.setR (vec 0x700000F0#32) 0x0 0xFFFF7F80#32) 0x1 0x2000#32)) (fun t => t.holds 0x203C#32 == some 0xFF#8 && t.holds 0x203D#32 == some 0xFF#8 && t.holds 0x203E#32 == some 0x7F#8 && t.holds 0x203F#32 == some 0x80#8)) = true := by
  decide

theorem test_mov_l_store_misaligned :
    entersAt (runWord 0x2102#16) (State.setR (vec 0x400000F0#32) 0x1 0x2002#32) 0x100#32 0x1000#32 (fun t => t.asleep == false) = true := by
  decide

theorem test_loads_b :
    (goesOn (runWord 0x6100#16 (State.poke (State.setR (vec 0x700000F0#32) 0x0 0x2000#32) 0x2000#32 [0x80])) (fun t => t.r 0x1 == 0xFFFFFF80#32) &&
      goesOn (runWord 0x6104#16 (State.poke (State.setR (vec 0x700000F0#32) 0x0 0x2000#32) 0x2000#32 [0xFE])) (fun t => t.r 0x1 == 0xFFFFFFFE#32 && t.r 0x0 == 0x2001#32) &&
      goesOn (runWord 0x012C#16 (State.poke (State.setR (State.setR (vec 0x700000F0#32) 0x0 0x10#32) 0x2 0x2000#32) 0x2010#32 [0x80])) (fun t => t.r 0x1 == 0xFFFFFF80#32) &&
      goesOn (runWord 0xC4FF#16 (State.poke { vec 0x700000F0#32 with gbr := 0x2000#32 } 0x20FF#32 [0x81])) (fun t => t.r 0x0 == 0xFFFFFF81#32) &&
      goesOn (runWord 0x844F#16 (State.poke (State.setR (vec 0x700000F0#32) 0x4 0x2000#32) 0x200F#32 [0xFF])) (fun t => t.r 0x0 == 0xFFFFFFFF#32)) = true := by
  decide

theorem test_loads_w :
    (goesOn (runWord 0x6101#16 (State.poke (State.setR (vec 0x700000F0#32) 0x0 0x2000#32) 0x2000#32 [0x80, 0x01])) (fun t => t.r 0x1 == 0xFFFF8001#32) &&
      goesOn (runWord 0x6105#16 (State.poke (State.setR (vec 0x700000F0#32) 0x0 0x2000#32) 0x2000#32 [0xFF, 0xFE])) (fun t => t.r 0x1 == 0xFFFFFFFE#32 && t.r 0x0 == 0x2002#32) &&
      goesOn (runWord 0x012D#16 (State.poke (State.setR (State.setR (vec 0x700000F0#32) 0x0 0x2000#32) 0x2 0x4#32) 0x2004#32 [0x9A, 0xBC])) (fun t => t.r 0x1 == 0xFFFF9ABC#32) &&
      goesOn (runWord 0x92FF#16 (State.poke { vec 0x700000F0#32 with pc := 0x1002#32 } 0x1204#32 [0x80, 0x01])) (fun t => t.r 0x2 == 0xFFFF8001#32) &&
      goesOn (runWord 0xC5FF#16 (State.poke { vec 0x700000F0#32 with gbr := 0x2000#32 } 0x21FE#32 [0x80, 0x01])) (fun t => t.r 0x0 == 0xFFFF8001#32) &&
      goesOn (runWord 0x854F#16 (State.poke (State.setR (vec 0x700000F0#32) 0x4 0x2000#32) 0x201E#32 [0x80, 0x00])) (fun t => t.r 0x0 == 0xFFFF8000#32)) = true := by
  decide

theorem test_loads_l :
    (goesOn (runWord 0x6102#16 (State.poke (State.setR (vec 0x700000F0#32) 0x0 0x2000#32) 0x2000#32 [0x89, 0xAB, 0xCD, 0xEF])) (fun t => t.r 0x1 == 0x89ABCDEF#32) &&
      goesOn (runWord 0x6336#16 (State.poke (State.setR (vec 0x700000F0#32) 0x3 0x2000#32) 0x2000#32 [0xCA, 0xFE, 0xF0, 0x0D])) (fun t => t.r 0x3 == 0xCAFEF00D#32) &&
      goesOn (runWord 0x002E#16 (State.poke (State.setR (State.setR (vec 0x700000F0#32) 0x0 0x10#32) 0x2 0x2000#32) 0x2010#32 [0x01, 0x02, 0x03, 0x04])) (fun t => t.r 0x0 == 0x1020304#32) &&
      goesOn (runWord 0xD201#16 (State.poke { vec 0x700000F0#32 with pc := 0x1002#32 } 0x1008#32 [0x12, 0x34, 0x56, 0x78])) (fun t => t.r 0x2 == 0x12345678#32) &&
      goesOn (runWord 0xC602#16 (State.poke { vec 0x700000F0#32 with gbr := 0x2000#32 } 0x2008#32 [0x12, 0x34, 0x56, 0x70])) (fun t => t.r 0x0 == 0x12345670#32) &&
      goesOn (runWord 0x5102#16 (State.poke (State.setR (vec 0x700000F0#32) 0x0 0x2000#32) 0x2008#32 [0x12, 0x34, 0x56, 0x70])) (fun t => t.r 0x1 == 0x12345670#32)) = true := by
  decide

theorem test_mov_l_load_misaligned :
    entersAt (runWord 0x6102#16) (State.setR (State.setR (vec 0x400000F0#32) 0x0 0x2002#32) 0x1 0x5#32) 0xE0#32 0x1000#32 (fun t => t.asleep == false) = true := by
  decide

theorem test_icbi_cleans :
    goesOn (runWord 0x03E3#16 (State.setR { vec 0x700000F0#32 with dirtyCode := [0x2000] } 0x3 0x2008#32)) (fun t => !t.dirtyCode.contains 0x2000) = true := by
  decide

theorem test_movca_l :
    goesOn (runWord 0x04C3#16 (State.setR (State.setR (vec 0x700000F0#32) 0x4 0x2008#32) 0x0 0xA5A5A5A5#32)) (fun t => t.holds 0x2008#32 == some 0xA5#8 && t.holds 0x2009#32 == some 0xA5#8 && t.holds 0x200A#32 == some 0xA5#8 && t.holds 0x200B#32 == some 0xA5#8 && t.dirtyCode.contains 0x2000) = true := by
  decide

theorem test_movco_l_stores :
    goesOn (runWord 0x0473#16 (State.setR (State.setR { vec 0x700000F0#32 with ldst := true } 0x4 0x2000#32) 0x0 0x12345678#32)) (fun t => t.holds 0x2000#32 == some 0x12#8 && t.holds 0x2001#32 == some 0x34#8 && t.holds 0x2002#32 == some 0x56#8 && t.holds 0x2003#32 == some 0x78#8 && t.tBit == true && t.ldst == false) = true := by
  decide

theorem test_movco_l_not :
    goesOn (runWord 0x0473#16 (State.setT (State.setR { vec 0x700000F0#32 with ldst := false } 0x4 0x2002#32) true)) (fun t => t.tBit == false && t.ldst == false) = true := by
  decide

theorem test_movli_l :
    goesOn (runWord 0x0463#16 (State.poke (State.setR (vec 0x700000F0#32) 0x4 0x2004#32) 0x2004#32 [0x44, 0x55, 0x66, 0x77])) (fun t => t.r 0x0 == 0x44556677#32 && t.ldst == true) = true := by
  decide

theorem test_movua_l :
    goesOn (runWord 0x41A9#16 (State.poke (State.poke (State.setR (vec 0x700000F0#32) 0x1 0x2001#32) 0x2000#32 [0x00, 0x11, 0x22, 0x33]) 0x2004#32 [0x44, 0x55, 0x66, 0x77])) (fun t => t.r 0x0 == 0x11223344#32) = true := by
  decide

theorem test_movua_l_inc :
    goesOn (runWord 0x41E9#16 (State.poke (State.poke (State.setR (vec 0x700000F0#32) 0x1 0x2007#32) 0x2004#32 [0x00, 0x00, 0x00, 0x77]) 0x2008#32 [0x88, 0x99, 0xAA, 0xBB])) (fun t => t.r 0x0 == 0x778899AA#32 && t.r 0x1 == 0x200B#32) = true := by
  decide

theorem test_ocbi_dirties :
    goesOn (runWord 0x0393#16 (State.setR (State.poke (State.setR (vec 0x700000F0#32) 0x3 0x2008#32) 0x2000#32 [0x00, 0x00, 0x00, 0x01]) 0x1 0x5#32)) (fun t => t.dirtyCode.contains 0x2000 && t.r 0x3 == 0x2008#32) = true := by
  decide

theorem test_ocbi_user :
    entersAt (runWord 0x0493#16) (State.setR (vec 0xF0#32) 0x4 0x8C000000#32) 0x100#32 0x1000#32 (fun t => t.asleep == false) = true := by
  decide

theorem test_cache_no_effect :
    (goesOn (runWord 0x04A3#16 (State.setR (vec 0x700000F0#32) 0x4 0x2001#32)) (fun t => t.r 0x4 == 0x2001#32 && t.pc == 0x1002#32) &&
      goesOn (runWord 0x04B3#16 (State.setR (vec 0x700000F0#32) 0x4 0x2001#32)) (fun t => t.r 0x4 == 0x2001#32 && t.pc == 0x1002#32) &&
      goesOn (runWord 0x0483#16 (State.setR (vec 0xF0#32) 0x4 0xFFFFFFFF#32)) (fun t => t.pc == 0x1002#32) &&
      goesOn (runWord 0x04D3#16 (State.setR (vec 0x700000F0#32) 0x4 0xFFFFFFFF#32)) (fun t => t.pc == 0x1002#32) &&
      goesOn (runWord 0x00AB#16 (vec 0x700000F0#32)) (fun t => t.pc == 0x1002#32 && t.sr == 0x700000F0#32)) = true := by
  decide

theorem test_dynamic_shifts :
    (goesOn (runWord 0x421C#16 (State.setT (State.setR (State.setR (vec 0x700000F0#32) 0x1 0xFFFFFFFF#32) 0x2 0x80000001#32) true)) (fun t => t.r 0x2 == 0xC0000000#32 && t.tBit == true) &&
      goesOn (runWord 0x421D#16 (State.setT (State.setR (State.setR (vec 0x700000F0#32) 0x1 0xFFFFFFFF#32) 0x2 0x80000001#32) true)) (fun t => t.r 0x2 == 0x40000000#32 && t.tBit == true) &&
      goesOn (runWord 0x421C#16 (State.setT (State.setR (State.setR (vec 0x700000F0#32) 0x1 0xFFFFFFE0#32) 0x2 0x80000001#32) true)) (fun t => t.r 0x2 == 0xFFFFFFFF#32 && t.tBit == true) &&
      goesOn (runWord 0x421D#16 (State.setT (State.setR (State.setR (vec 0x700000F0#32) 0x1 0xFFFFFFE0#32) 0x2 0x80000001#32) true)) (fun t => t.r 0x2 == 0x0#32 && t.tBit == true)) = true := by
  decide

theorem test_rotates :
    (goesOn (runWord 0x4024#16 (State.setT (State.setR (vec 0x700000F0#32) 0x0 0x40000001#32) true)) (fun t => t.r 0x0 == 0x80000003#32 && t.tBit == false) &&
      goesOn (runWord 0x4025#16 (State.setR (vec 0x700000F0#32) 0x0 0x80000000#32)) (fun t => t.r 0x0 == 0x40000000#32 && t.tBit == false) &&
      goesOn (runWord 0x4004#16 (State.setR (vec 0x700000F0#32) 0x0 0x80000000#32)) (fun t => t.r 0x0 == 0x1#32 && t.tBit == true) &&
      goesOn (runWord 0x4005#16 (State.setR (vec 0x700000F0#32) 0x0 0x1#32)) (fun t => t.r 0x0 == 0x80000000#32 && t.tBit == true)) = true := by
  decide

theorem test_one_bit_shifts :
    (goesOn (runWord 0x4020#16 (State.setR (vec 0x700000F0#32) 0x0 0x80000001#32)) (fun t => t.r 0x0 == 0x2#32 && t.tBit == true) &&
      goesOn (runWord 0x4021#16 (State.setR (vec 0x700000F0#32) 0x0 0x80000001#32)) (fun t => t.r 0x0 == 0xC0000000#32 && t.tBit == true) &&
      goesOn (runWord 0x4000#16 (State.setR (vec 0x700000F0#32) 0x0 0x80000001#32)) (fun t => t.r 0x0 == 0x2#32 && t.tBit == true) &&
      goesOn (runWord 0x4001#16 (State.setR (vec 0x700000F0#32) 0x0 0xFFFFFFFF#32)) (fun t => t.r 0x0 == 0x7FFFFFFF#32 && t.tBit == true)) = true := by
  decide

theorem test_fixed_shifts :
    (goesOn (runWord 0x4008#16 (State.setT (State.setR (vec 0x700000F0#32) 0x0 0x12345678#32) true)) (fun t => t.r 0x0 == 0x48D159E0#32 && t.tBit == true) &&
      goesOn (runWord 0x4018#16 (State.setT (State.setR (vec 0x700000F0#32) 0x0 0x12345678#32) true)) (fun t => t.r 0x0 == 0x34567800#32 && t.tBit == true) &&
      goesOn (runWord 0x4028#16 (State.setT (State.setR (vec 0x700000F0#32) 0x0 0x12345678#32) true)) (fun t => t.r 0x0 == 0x56780000#32 && t.tBit == true) &&
      goesOn (runWord 0x4009#16 (State.setT (State.setR (vec 0x700000F0#32) 0x0 0x12345678#32) true)) (fun t => t.r 0x0 == 0x48D159E#32 && t.tBit == true) &&
      goesOn (runWord 0x4019#16 (State.setT (State.setR (vec 0x700000F0#32) 0x0 0x12345678#32) true)) (fun t => t.r 0x0 == 0x123456#32 && t.tBit == true) &&
      goesOn (runWord 0x4029#16 (State.setT (State.setR (vec 0x700000F0#32) 0x0 0x12345678#32) true)) (fun t => t.r 0x0 == 0x1234#32 && t.tBit == true)) = true := by
  decide

theorem test_clrdmxy :
    goesOn (runWord 0x0088#16 (vec 0x70001CF0#32)) (fun t => t.sr == 0x700010F0#32) = true := by
  decide

theorem test_clrdmxy_off :
    entersAt (runWord 0x0088#16) (vec 0x400000F0#32) 0x180#32 0x1000#32 (fun t => t.asleep == false) = true := by
  decide

theorem test_setdmx :
    goesOn (runWord 0x0098#16 (vec 0x700018F0#32)) (fun t => t.sr == 0x700014F0#32) = true := by
  decide

theorem test_setdmy :
    goesOn (runWord 0x00C8#16 (vec 0x700014F0#32)) (fun t => t.sr == 0x700018F0#32) = true := by
  decide

theorem test_ldc_sr :
    goesOn (runWord 0x400E#16 (State.setR (vec 0x40000000#32) 0x0 0xFFFFFFFF#32)) (fun t => t.sr == 0x7FFF1FFF#32) = true := by
  decide

theorem test_ldc_sr_user_dsp :
    goesOn (runWord 0x440E#16 (State.setR (vec 0x10F0#32) 0x4 0xFFFFFFFF#32)) (fun t => t.sr == 0xFFF1CFC#32) = true := by
  decide

theorem test_ldc_l_sr :
    goesOn (runWord 0x4F07#16 (State.poke (State.setR (vec 0x700000F0#32) 0xF 0x2000#32) 0x2000#32 [0x40, 0x00, 0x00, 0xF1])) (fun t => t.sr == 0x400000F1#32 && t.r 0xF == 0x2004#32) = true := by
  decide

theorem test_ldc_l_sr_refused :
    refusesWith (runWord 0x4107#16 (State.poke (State.setR (vec 0x700000F0#32) 0x1 0x2000#32) 0x2000#32 [0x50, 0x00, 0x00, 0xF0])) (.bankSwitchOfPointer) = true := by
  decide

theorem test_setrc :
    goesOn (runWord 0x4314#16 (State.setR (vec 0x700010F0#32) 0x3 0xFFFFFABC#32)) (fun t => t.rc == 0xABC#12) = true := by
  have h : ∀ x y : Bool, goesOn (done { (((State.setR (vec 0x700010F0#32) 0x3 0xFFFFFABC#32)).setRepeat 0xABC x y) with freeCount := 2 }) (fun t => t.rc == 0xABC#12) = true := by
    decide
  exact h ((Config.freeBit 0).getLsbD 0) ((Config.freeBit 1).getLsbD 0)

theorem test_setrc_imm :
    goesOn (runWord 0x82FF#16 (vec 0x700010F0#32)) (fun t => t.rc == 0xFF#12) = true := by
  have h : ∀ x y : Bool, goesOn (done { (((vec 0x700010F0#32)).setRepeat 0xFF x y) with freeCount := 2 }) (fun t => t.rc == 0xFF#12) = true := by
    decide
  exact h ((Config.freeBit 0).getLsbD 0) ((Config.freeBit 1).getLsbD 0)

theorem test_setrc_zero :
    refusesWith (runWord 0x8200#16 (vec 0x700010F0#32)) (.repeatCountZero) = true := by
  decide

theorem test_ldrc :
    goesOn (runWord 0x4334#16 (State.setR { vec 0x700010F0#32 with re := 0x2000#32 } 0x3 0xFFFFF005#32)) (fun t => t.rc == 0x5#12 && t.re == 0x2001#32) = true := by
  have h : ∀ x y : Bool, goesOn (done { (((State.setR { vec 0x700010F0#32 with re := 0x2000#32 } 0x3 0xFFFFF005#32)).setRepeat 5 x y).markExtendedRepeat with freeCount := 2 }) (fun t => t.rc == 0x5#12 && t.re == 0x2001#32) = true := by
    decide
  exact h ((Config.freeBit 0).getLsbD 0) ((Config.freeBit 1).getLsbD 0)

theorem test_ldrc_imm :
    goesOn (runWord 0x8A10#16 { vec 0x700010F0#32 with re := 0x2000#32 }) (fun t => t.rc == 0x10#12 && t.re == 0x2001#32) = true := by
  have h : ∀ x y : Bool, goesOn (done { (({ vec 0x700010F0#32 with re := 0x2000#32 }).setRepeat 0x10 x y).markExtendedRepeat with freeCount := 2 }) (fun t => t.rc == 0x10#12 && t.re == 0x2001#32) = true := by
    decide
  exact h ((Config.freeBit 0).getLsbD 0) ((Config.freeBit 1).getLsbD 0)

theorem test_ldre :
    goesOn (runWord 0x8E80#16 (vec 0x700010F0#32)) (fun t => t.re == 0xF04#32) = true := by
  decide

theorem test_ldrs :
    goesOn (runWord 0x8C10#16 (vec 0x700010F0#32)) (fun t => t.rs == 0x1024#32) = true := by
  decide

theorem test_lds_dsr :
    goesOn (runWord 0x436A#16 (State.setR (vec 0x700010F0#32) 0x3 0xFFFFFFFD#32)) (fun t => t.dsr == 0xD#32) = true := by
  decide

theorem test_lds_l_dsr :
    goesOn (runWord 0x4366#16 (State.poke (State.setR (vec 0x700010F0#32) 0x3 0x2000#32) 0x2000#32 [0xFF, 0xFF, 0xFF, 0xFD])) (fun t => t.dsr == 0xD#32 && t.r 0x3 == 0x2004#32) = true := by
  decide

theorem test_lds_a0 :
    goesOn (runWord 0x437A#16 (State.setR (vec 0x700010F0#32) 0x3 0x80000001#32)) (fun t => t.a0 == 0x80000001#32 && t.a0g == 0xFF#8) = true := by
  decide

theorem test_lds_l_a0 :
    goesOn (runWord 0x4376#16 (State.poke (State.setR (vec 0x700010F0#32) 0x3 0x2000#32) 0x2000#32 [0x80, 0x00, 0x00, 0x00])) (fun t => t.a0 == 0x80000000#32 && t.a0g == 0xFF#8 && t.r 0x3 == 0x2004#32) = true := by
  decide

theorem test_undefined_word :
    entersAt (runWord 0x0000#16) (State.setR (vec 0x400000F0#32) 0xF 0x3000#32) 0x180#32 0x1000#32 (fun t => t.asleep == false) = true := by
  decide

theorem test_dsp_space :
    refusesWith (runWord 0xFFFD#16 (vec 0x700000F0#32)) (.dspInstructionSpace 0xFFFD#16) = true := by
  decide

theorem test_slot_illegal :
    (entersAt (runWord 0xA000#16) { vec 0x400000F0#32 with pending := some ⟨0x0FFE#32, 0x2100#32, false⟩ } 0x1A0#32 0xFFE#32 (fun t => t.asleep == false) &&
      entersAt (runWord 0xC700#16) { vec 0x400000F0#32 with pending := some ⟨0x0FFE#32, 0x2100#32, false⟩ } 0x1A0#32 0xFFE#32 (fun t => t.asleep == false) &&
      entersAt (runWord 0xC301#16) { vec 0x400000F1#32 with pending := some ⟨0x0FFE#32, 0x2100#32, false⟩ } 0x1A0#32 0xFFE#32 (fun t => t.tra == 0x0#32)) = true := by
  decide

theorem test_slot_sets_pr :
    goesOn (runWord 0x412A#16 (State.setR { vec 0x700000F0#32 with pending := some ⟨0x0FFE#32, 0x2100#32, false⟩, pr := 0x2000#32 } 0x1 0x4000#32)) (fun t => t.pc == 0x2100#32 && t.pr == 0x4000#32) = true := by
  decide

theorem test_control_expevt :
    goesOn (runWord 0x6102#16 (State.setR { vec 0x700000F0#32 with expevt := 0x160#32 } 0x0 0xFF000024#32)) (fun t => t.r 0x1 == 0x160#32) = true := by
  decide

theorem test_control_pteh :
    goesOn (runWord 0x2102#16 (State.setR (State.setR (vec 0x700000F0#32) 0x0 0x12345400#32) 0x1 0xFF000000#32)) (fun t => t.pteh == 0x12345400#32) = true := by
  decide

theorem test_control_tra_read_only :
    faultsWith (runWord 0x2102#16 (State.setR (vec 0x700000F0#32) 0x1 0xFF000020#32)) (.readOnlyRegister 0xFF000020#32) = true := by
  decide

theorem test_control_mmu :
    refusesWith (runWord 0x2102#16 (State.setR (State.setR (vec 0x700000F0#32) 0x0 0x1#32) 0x1 0xFF000010#32)) (.mmuEnable) = true := by
  decide

/-! ## Steps -/

/-- A program of words placed from `a` on, as a launch image. -/
def State.image (s : State) (a : Word) (ws : List Half) : State :=
  s.poke a (ws.flatMap (halfBytes s))

/-- A taken branch, its slot, then the target (42_branch.md R201, 95_test_vectors.md part 3.3): RTS with LDS R1,PR. -/
theorem test_slot_of_rts :
    goesOn (boundaryStep ({ (vec 0x700000F0#32).setR 1 0x4000#32 with pr := 0x2000#32 }.image 0x1000#32
      [0x000B#16, 0x412A#16])) (fun t => t.pc == 0x2000#32 && t.pr == 0x4000#32 && t.pending == none) = true := by
  decide

/-- BSR with a misaligned load in its slot: SPC is the branch's address (95_test_vectors.md part 3.3). -/
theorem test_exception_in_slot :
    entersAt boundaryStep (((vec 0x400000F0#32).setR 2 0x2001#32).image 0x1000#32 [0xB004#16, 0x6122#16])
      0x0E0#32 0x1000#32 (fun t => t.pr == 0x1004#32) = true := by
  decide

/-- The slot of RTE runs under the restored SR (43_system_control.md R256). -/
theorem test_rte_slot :
    goesOn (boundaryStep ({ (vec 0x700000F0#32).setR 14 0x10#32 with
        pc := 0x8C000120#32, ssr := 0xF1#32, spc := 0x1002#32 }.image 0x8C000120#32 [0x002B#16, 0x7E08#16]))
      (fun t => t.pc == 0x1002#32 && t.sr == 0xF1#32 && t.r 14 == 0x18#32) = true := by
  decide

/-- An exception in RTE's slot is a fault (95_test_vectors.md part 4). -/
theorem test_rte_slot_fault :
    faultsWith (boundaryStep ({ (vec 0x700000F0#32).setBankR 0 0x2002#32 with ssr := 0xF0#32 }.image 0x1000#32
      [0x002B#16, 0x6102#16])) (.exceptionInRteSlot .dataAddressErrorRead) = true := by
  decide

/-- A fetch at an odd pc (95_test_vectors.md part 4). -/
theorem test_fetch_odd :
    entersAt step { vec 0x400000F0#32 with pc := 0x1001#32 } 0x0E0#32 0x1001#32 (fun _ => true) = true := by
  decide

/-- A user fetch from the privileged area (95_test_vectors.md part 4). -/
theorem test_fetch_user :
    entersAt step { vec 0x000000F0#32 with pc := 0x8C000000#32 } 0x0E0#32 0x8C000000#32 (fun _ => true) = true := by
  decide

/-- A fetch from no region (95_test_vectors.md part 4). -/
theorem test_fetch_unmapped :
    faultsWith (step { vec 0x400000F0#32 with pc := 0x5000#32 }) (.unmapped 0x5000#32) = true := by
  decide

/-- A fetch from a block stored to (20_memory.md R89). -/
theorem test_fetch_stale :
    faultsWith (step ({ vec 0x400000F0#32 with dirtyCode := [0x1000] }.image 0x1000#32 [0x0009#16]))
      (.staleFetch 0x1000#32) = true := by
  decide

/-- A step with RC not 0 (47_dsp_control.md R440). -/
theorem test_repeat_loop_refused :
    refusesWith (step ((vec 0x400110F0#32).image 0x1000#32 [0x0009#16])) .repeatLoopArmed = true := by
  decide

/-- An interrupt wakes the machine (95_test_vectors.md part 4). -/
theorem test_interrupt_wakes :
    goesOn (step { vec 0x40000010#32 with pc := 0x1002#32, asleep := true, irq := [some ⟨3, 0x2A0#32⟩] })
      (fun t => t.ssr == 0x40000010#32 && t.spc == 0x1002#32 && t.sr == 0x70000010#32 && t.intevt == 0x2A0#32 &&
        t.asleep == false && t.pc == 0x8C000600#32) = true := by
  decide

/-- A request at a level not above IMASK is not accepted (95_test_vectors.md part 4). -/
theorem test_interrupt_masked :
    goesOn (step ({ vec 0x400000F0#32 with irq := [some ⟨3, 0x2A0#32⟩] }.image 0x1000#32 [0x0009#16]))
      (fun t => t.pc == 0x1002#32 && t.irq == []) = true := by
  decide

/-- The first step from reset, with nothing placed (70_reset_and_hazards.md R500). -/
theorem test_reset_unmapped : faultsWith (step State.reset) (.unmapped 0xA0000000#32) = true := by decide

/-- MOVUA.L from the last three bytes of a device region: the fourth byte is checked too (45_cache_sync.md R355). -/
theorem test_movua_device_edge :
    faultsWith (runWord 0x41A9#16 (({ vec 0x400000F0#32 with
      params := { vecParams .big with memMap := [⟨0x2000, 4, .device⟩] },
      host := [.read 0x2001#32 4 0#32] } : State).setR 1 0x2001#32)) (.unmapped 0x2004#32) = true := by
  decide

/-- BSR before a slot word in a device region of which IS32 holds (42_branch.md R216). -/
theorem test_bsr_is32_device :
    goesOn (runWord 0xB000#16 { vec 0x400000F0#32 with
      params := { vecParams .big with memMap := [⟨0x1000, 0x100, .device⟩], is32 := [⟨0xFFFF#16, 0x0009#16⟩] },
      host := [.read 0x1002#32 2 0x0009#32] }) (fun t => t.pr == 0x1006#32 && t.host.length == 1) = true := by
  decide

/-- The instruction placed where the reset state fetches runs first. -/
theorem test_first_instruction :
    goesOn (step (State.reset.withFetchWord 16 0xE77F)) (fun t => t.r 7 == 0x7F#32 && t.pc == 0xA0000002#32) = true := by
  decide

/-- LDTLB in privileged mode is refused (43_system_control.md R254, 95_test_vectors.md part 4). -/
theorem test_ldtlb_refused : refusesWith (runWord 0x0038#16 (vec 0x700000F0#32)) .ldtlbWithoutTlb = true := by decide

/-- Where the launch lets LDTLB load, the entry MMUCR.URC names gets the fields of 10_state.md R48. -/
theorem test_ldtlb_loads :
    goesOn (runWord 0x0038#16 { vec 0x700000F0#32 with
        pteh := 0x12345678#32, ptel := 0x1FFFFDFF#32, mmucr := 0x0000FC00#32,
        params := { vecParams .big with ldtlb := .load } })
      (fun t => t.pc == 0x1002#32 && t.tlb == [(63, ⟨0x78#8, 0x48D15#22, 0x7FFFF#19, 3#2, 1#1, 3#2, 1#1, 1#1, 1#1, 1#1⟩)])
      = true := by
  decide

/-- The non-maskable interrupt has its own code (60_exceptions.md R452), whatever the request says. -/
theorem test_non_maskable_interrupt :
    goesOn (step { vec 0x400000F0#32 with irq := [some ⟨16, 0x2A0#32⟩] })
      (fun t => t.intevt == 0x1C0#32 && t.pc == 0x8C000600#32 && t.spc == 0x1000#32) = true := by
  decide

/-- At an address of END nothing is fetched, RC not 0 and an acceptable request notwithstanding (60_exceptions.md R476,
R450). -/
theorem test_run_ended :
    goesOn (step { vec 0x40010000#32 with irq := [some ⟨3, 0x2A0#32⟩], params := { vecParams .big with ends := [0x1000#32] } })
      (fun t => t.pc == 0x1000#32 && t.irq == [some ⟨3, 0x2A0#32⟩]) = true := by
  decide

/-- A store to MMUCR, of all 32 bits, and one that would enable the MMU (20_memory.md R84, R85). -/
theorem test_mmucr_store :
    (goesOn (runWord 0x2012#16 ((((vec 0x400000F0#32).setR 0 0xFF000010#32)).setR 1 0xFFFFFFFE#32))
        (fun t => t.mmucr == 0xFFFFFFFE#32) &&
      refusesWith (runWord 0x2012#16 ((((vec 0x400000F0#32).setR 0 0xFF000010#32)).setR 1 1#32)) .mmuEnable) = true := by
  decide

/-- The bytes that OCBI loses are lost in rom as well (45_cache_sync.md R357), and hold some value. -/
theorem test_ocbi_loses_rom :
    goesOn (runWord 0x0093#16 { (vec 0x400000F0#32).setR 0 0x2000#32 with
        params := { vecParams .big with memMap := [⟨0x2000, 0x10, .ram⟩, ⟨0x2010, 0x10, .rom⟩] } })
      (fun t => (t.holds 0x2000#32).isSome && (t.holds 0x201F#32).isSome && t.holds 0x2020#32 == none) = true := by
  decide


/-! ## Witnesses: for each statement with hypotheses, concrete states and operands that meet them -/

theorem goesOn_iff {o : Outcome} {p : State → Bool} : goesOn o p = true ↔ ∃ t, o = .next t ∧ p t = true := by
  cases o <;> simp [goesOn]

/-- A state with bytes at H'2000 and after, R0 to R5 pointing there or counting, and NOP at its pc. -/
def wit (sr : Word) : State :=
  { ((((((vec sr).setR 0 0x4#32).setR 1 0x2000#32).setR 2 0x2004#32).setR 3 0x2001#32).setR 4 0x8C000000#32).setR 5
      0xFF000000#32 with
    gbr := 0x2000#32, pr := 0x1008#32, ssr := 0x100#32, spc := 0x1010#32 }.poke 0x1000#32
      [0x00, 0x09, 0x00, 0x09, 0x00, 0x09, 0x00, 0x09] |>.poke 0x2000#32
      [0x00, 0x01, 0x7F, 0xFE, 0x80, 0x00, 0x12, 0x34, 0x56, 0x78]

/-- `wit` in the delay slot of a branch, or of an RTE. -/
def witSlot (sr : Word) (rte : Bool) : State := { wit sr with pending := some ⟨0x0FFE#32, 0x1004#32, rte⟩ }

/-- User mode; privileged mode; user mode with SR.DSP = 1; privileged mode with SR.DSP = 1; and with BL = 1. -/
abbrev user : Word := 0x000000F0#32
abbrev privileged : Word := 0x400000F0#32
abbrev userDsp : Word := 0x000010F0#32
abbrev privilegedDsp : Word := 0x400010F0#32
abbrev blocked : Word := 0x500000F0#32

theorem test_witness_EncodeDecode : decode 0x310C#16 = .ok (.add 0 1) := by decide

theorem test_witness_WordsWithoutInstruction :
    nib3 0xF800#16 = 0xF#4 ∧ decode 0x0000#16 = .error .undefinedWord ∧ (wit user).pending = none ∧
      (witSlot user false).pending ≠ none := by
  decide

theorem test_witness_StepRunsInstruction :
    (fetch (wit user) = .ok 0x0009#16 ∧ decode 0x0009#16 = .ok .nop ∧ slotExtra (wit user) 0x0009#16 = false ∧
      (wit user).pending = none ∧ (wit user).pc ∉ (wit user).params.ends ∧ (wit user).rc = 0 ∧ (wit user).irqNow = none ∧ (wit user).asleep = false) ∧
    (fetch (witSlot user true) = .ok 0x0009#16 ∧ slotExtra (witSlot user true) 0x0009#16 = false ∧
      (witSlot user true).pending ≠ none) := by
  decide

/-- MAC.L of one register and of two, with S clear and set. -/
theorem test_witness_MacLong :
    (Loads (wit user) ((wit user).r 1) (longBytes (wit user) 0x00017FFE#32) ∧
      Loads (wit user) ((wit user).r 1 + 4#32) (longBytes (wit user) 0x80001234#32) ∧
      Loads (wit user) ((wit user).r 2) (longBytes (wit user) 0x80001234#32)) ∧
    (wit user).sBit = false ∧ (wit (user ||| 2#32)).sBit = true ∧ (wit user).params.maclSatHigh = .preserve := by
  unfold Loads; decide

/-- MAC.W of one register and of two. -/
theorem test_witness_MacWord :
    Loads (wit user) ((wit user).r 1) (halfBytes (wit user) 0x0001#16) ∧
      Loads (wit user) ((wit user).r 1 + 2#32) (halfBytes (wit user) 0x7FFE#16) ∧
      Loads (wit user) ((wit user).r 2) (halfBytes (wit user) 0x8000#16) := by
  unfold Loads; decide

theorem test_witness_LogicalByte :
    (Loads (wit user) ((wit user).gbr + (wit user).r 0) [0x80#8] ∧
      Storable (wit user) ((wit user).gbr + (wit user).r 0) 1) ∧
    (Loads (wit user) ((wit user).r 3) [0x01#8] ∧ Storable (wit user) ((wit user).r 3) 1) := by
  unfold Loads Storable; decide

/-- Branches, SubroutineCalls, PcRelative and TrapA: outside a slot, with BL = 0. -/
theorem test_witness_OutsideSlot :
    (wit user).pending = none ∧ (wit user).bl = false ∧
      (fetch { wit user with pc := (wit user).pc + 2#32 }).toOption = some 0x0009#16 ∧
      (wit userDsp).pending = none ∧ (wit userDsp).dsp = true := by
  decide

/-- The target's branch, and an exception in the slot. -/
theorem test_witness_SlotThenTarget :
    (witSlot user false).pending = some ⟨0x0FFE#32, 0x1004#32, false⟩ ∧
      (∃ t, exec .nop (witSlot user false) = .next t ∧ (t.pc == 0x1004#32) = true) ∧
      (∃ t, exec (.trapa 1) (witSlot user false) = .next t ∧ (t.pc == 0x8C000100#32) = true) :=
  ⟨by decide, goesOn_iff.1 (by decide), goesOn_iff.1 (by decide)⟩

/-- SpecialRegisterLoads, SpecialRegisterPops, SpecialRegisterStores, SpecialRegisterPushes, BankedRegisters,
SleepAndWait, ReturnFromException and ModuloBits: the modes, with an operand to load and a place to store to. -/
theorem test_witness_SpecialRegisters :
    (wit privilegedDsp).md = true ∧ (wit privilegedDsp).dsp = true ∧ (wit privilegedDsp).pending = none ∧
      Loads (wit privilegedDsp) ((wit privilegedDsp).r 1) (longBytes (wit privilegedDsp) 0x00017FFE#32) ∧
      Storable (wit privilegedDsp) ((wit privilegedDsp).r 2 - 4#32) 4 := by
  unfold Loads Storable; decide

/-- The operand may lie in the privileged area, and the first and the last longword of a region are within it. -/
theorem test_witness_Boundaries :
    Storable (wit privileged) 0x8C000000#32 4 ∧ Storable (wit privileged) 0x8C000FFC#32 4 ∧
      ¬Storable (wit user) 0x8C000000#32 4 ∧ ¬Storable (wit user) 0x4000#32 4 ∧ Storable (wit user) 0x3FFC#32 4 := by
  unfold Storable; decide

/-- The two values of the launch's parameter. -/
theorem test_witness_LoadTlb :
    (wit privileged).md = true ∧ (wit privileged).params.ldtlb = .refuse ∧
      ({ wit privileged with params := { vecParams .big with ldtlb := .load } } : State).params.ldtlb = .load := by
  decide

/-- Asleep with a request to come, and a run that has ended in either way. -/
theorem test_witness_SleepAndWait :
    (({ wit privileged with asleep := true, irq := [none, some ⟨1, 0#32⟩] } : State).pending = none ∧
      ({ wit privileged with asleep := true, irq := [none, some ⟨1, 0#32⟩] } : State).asleep = true ∧
      ¬RunEnded { wit privileged with asleep := true, irq := [none, some ⟨1, 0#32⟩] } ∧
      ({ wit privileged with asleep := true, irq := [none, some ⟨1, 0#32⟩] } : State).rc = 0 ∧
      ({ wit privileged with asleep := true, irq := [none, some ⟨1, 0#32⟩] } : State).irqNow = none) ∧
    RunEnded { wit privileged with asleep := true, irq := [none] } ∧
    RunEnded { wit privileged with params := { vecParams .big with ends := [0x1000#32] } } := by
  unfold RunEnded; decide

/-- Each form of address, for each size. -/
theorem test_witness_LoadsOfMemory :
    (Loads (wit user) ((wit user).r 3) [0x01#8] ∧ Loads (wit user) ((wit user).r 3 + (wit user).r 0) [0x00#8] ∧
      Loads (wit user) ((wit user).gbr + (0x09#8).setWidth 32) [0x78#8] ∧
      Loads (wit user) ((wit user).r 3 + (0x8#4).setWidth 32) [0x78#8]) ∧
    (Loads (wit user) ((wit user).r 1) (halfBytes (wit user) 0x0001#16) ∧
      Loads (wit user) ((wit user).r 1 + (wit user).r 0) (halfBytes (wit user) 0x8000#16) ∧
      Loads (wit user) ((wit user).gbr + 2#32 * (0x01#8).setWidth 32) (halfBytes (wit user) 0x7FFE#16) ∧
      Loads (wit user) ((wit user).r 1 + 2#32 * (0x4#4).setWidth 32) (halfBytes (wit user) 0x5678#16)) ∧
    (Loads (wit user) ((wit user).r 1) (longBytes (wit user) 0x00017FFE#32) ∧
      Loads (wit user) ((wit user).r 1 + (wit user).r 0) (longBytes (wit user) 0x80001234#32) ∧
      Loads (wit user) ((wit user).gbr + 4#32 * (0x01#8).setWidth 32) (longBytes (wit user) 0x80001234#32) ∧
      Loads (wit user) ((wit user).r 1 + 4#32 * (0x1#4).setWidth 32) (longBytes (wit user) 0x80001234#32)) := by
  refine ⟨⟨?_, ?_, ?_, ?_⟩, ⟨?_, ?_, ?_, ?_⟩, ⟨?_, ?_, ?_, ?_⟩⟩ <;> (unfold Loads; decide)

theorem test_witness_PcRelative :
    (wit user).pending = none ∧
      Loads (wit user) ((wit user).pc + 4#32 + 2#32 * (0x01#8).setWidth 32) (halfBytes (wit user) 0x0009#16) ∧
      Loads (wit user) (((wit user).pc &&& 0xFFFFFFFC#32) + 4#32 + 4#32 * (0x00#8).setWidth 32)
        (longBytes (wit user) 0x00090009#32) := by
  unfold Loads; decide

theorem test_witness_LoadsPostIncrement :
    Loads (wit user) ((wit user).r 3) [0x01#8] ∧ Loads (wit user) ((wit user).r 2) (halfBytes (wit user) 0x8000#16) ∧
      Loads (wit user) ((wit user).r 2) (longBytes (wit user) 0x80001234#32) := by
  unfold Loads; decide

theorem test_witness_Stores :
    (Storable (wit user) ((wit user).r 3) 1 ∧ Storable (wit user) ((wit user).r 3 + (wit user).r 0) 1 ∧
      Storable (wit user) ((wit user).gbr + (0xFF#8).setWidth 32) 1 ∧
      Storable (wit user) ((wit user).r 3 + (0xF#4).setWidth 32) 1) ∧
    (Storable (wit user) ((wit user).r 2) 2 ∧ Storable (wit user) ((wit user).r 2 + (wit user).r 0) 2 ∧
      Storable (wit user) ((wit user).gbr + 2#32 * (0xFF#8).setWidth 32) 2 ∧
      Storable (wit user) ((wit user).r 2 + 2#32 * (0xF#4).setWidth 32) 2) ∧
    (Storable (wit user) ((wit user).r 2) 4 ∧ Storable (wit user) ((wit user).r 2 + (wit user).r 0) 4 ∧
      Storable (wit user) ((wit user).gbr + 4#32 * (0xFF#8).setWidth 32) 4 ∧
      Storable (wit user) ((wit user).r 2 + 4#32 * (0xF#4).setWidth 32) 4) := by
  refine ⟨⟨?_, ?_, ?_, ?_⟩, ⟨?_, ?_, ?_, ?_⟩, ⟨?_, ?_, ?_, ?_⟩⟩ <;> (unfold Storable; decide)

theorem test_witness_StoresPreDecrement :
    Storable (wit user) ((wit user).r 1 - 1#32) 1 ∧ Storable (wit user) ((wit user).r 1 - 2#32) 2 ∧
      Storable (wit user) ((wit user).r 1 - 4#32) 4 := by
  unfold Storable; decide

theorem test_witness_LinkedAccess :
    Loads (wit user) ((wit user).r 1) (longBytes (wit user) 0x00017FFE#32) ∧
      (({ wit user with ldst := true } : State).ldst = true ∧
        Storable { wit user with ldst := true } (({ wit user with ldst := true } : State).r 1) 4) ∧
      (wit user).ldst = false := by
  unfold Loads Storable; decide

/-- `wit` with a device region as well. -/
def witDevice (sr : Word) : State :=
  { wit sr with params := { vecParams .big with memMap := [⟨0x1000, 0x1000, .ram⟩, ⟨0x2000, 0x1000, .device⟩] } }

/-- `wit` with a device region of three bytes, after which nothing is mapped. -/
def witEdge (sr : Word) : State :=
  { wit sr with params := { vecParams .big with memMap := [⟨0x1000, 0x1000, .ram⟩, ⟨0x2000, 3, .device⟩] } }

/-- An address that is no multiple of 4, in memory and in a device region, and one whose third byte is in no region; and
one in memory whose last byte is in none. -/
theorem test_witness_UnalignedLoad :
    (∀ k < 4, (wit user).mayAccess ((wit user).r 3 + BitVec.ofNat 32 k) = true ∧
      (wit user).readableAt ((wit user).r 3 + BitVec.ofNat 32 k) = true ∧
      (wit user).holds ((wit user).r 3 + BitVec.ofNat 32 k) = (longBytes (wit user) 0x017FFE80#32)[k]?) ∧
    ((∀ k < 4, (witDevice user).mayAccess ((witDevice user).r 3 + BitVec.ofNat 32 k) = true) ∧
      (witDevice user).isDevice ((witDevice user).r 3) = true ∧ HostReadable (witDevice user) ((witDevice user).r 3) 4 ∧
      ({ witDevice user with host := [.read 0x2001#32 4 1#32] } : State).host.head? =
        some (.read ((witDevice user).r 3) 4 1#32)) ∧
    ((∀ j < 4, (witEdge user).mayAccess ((witEdge user).r 3 + BitVec.ofNat 32 j) = true ∧
        isControl ((witEdge user).r 3 + BitVec.ofNat 32 j) = false) ∧
      (witEdge user).isDevice ((witEdge user).r 3) = true ∧ HostReadable (witEdge user) ((witEdge user).r 3) 2 ∧
      regionKind (witEdge user).params.memMap ((witEdge user).r 3 + BitVec.ofNat 32 2) = none) ∧
    ((∀ j < 3, (wit user).readableAt (0x3FFD#32 + BitVec.ofNat 32 j) = true) ∧
      regionKind (wit user).params.memMap (0x3FFD#32 + BitVec.ofNat 32 3) = none) := by
  unfold HostReadable; decide

/-- BlocksLost and CacheWithoutEffect: a block of ram, and one of a device, and the block where registers are mapped. -/
theorem test_witness_BlocksLost :
    Storable (wit user) ((wit user).r 2) 4 ∧ (wit user).mayAccess ((wit user).r 2) = true ∧
      regionKind (wit user).params.memMap ((wit user).r 2) = some .ram ∧
      regionKind (witDevice user).params.memMap ((witDevice user).r 2) = some .device ∧
      (wit user).pending = none ∧ blockOf ((wit user).r 2) ≠ 0xFF000000#32 ∧
      blockOf ((wit privileged).r 5) = 0xFF000000#32 := by
  unfold Storable; decide

/-- In privileged mode, in user mode with SR.DSP = 1, with and without a switch of the bank. -/
theorem test_witness_StatusRegisterMoves :
    (((wit privileged).md || (wit privileged).dsp) = true ∧ (wit privileged).pending = none ∧
      Loads (wit privileged) ((wit privileged).r 1) (longBytes (wit privileged) 0x00017FFE#32) ∧
      ({ wit privileged with sr := 0x00017FFE#32 &&& 0x7FFF1FFF#32 } : State).bankSel = (wit privileged).bankSel ∧
      Storable (wit privileged) ((wit privileged).r 2 - 4#32) 4) ∧
    (((wit userDsp).md || (wit userDsp).dsp) = true ∧ (wit userDsp).md = false) ∧
    ((1 : Reg) < 8 ∧ Loads ((wit privileged).poke 0x2000#32 [0x60]) ((wit privileged).r 1)
        (longBytes (wit privileged) 0x60017FFE#32) ∧
      ({ wit privileged with sr := 0x60017FFE#32 &&& 0x7FFF1FFF#32 } : State).bankSel ≠ (wit privileged).bankSel) := by
  unfold Loads Storable; decide

/-- A count that is not 0 and one that is (R5[11:0]). -/
theorem test_witness_RepeatCounts :
    (wit userDsp).dsp = true ∧ ((wit userDsp).r 0).setWidth 12 ≠ 0#12 ∧ (0x01#8).setWidth 12 ≠ 0#12 ∧
      ((wit userDsp).r 5).setWidth 12 = 0#12 := by
  decide

/-- ExceptionEntry, and ExceptionsThatEndTheRun: outside RTE's slot with BL = 0 and 1, and in RTE's slot. -/
theorem test_witness_Exceptions :
    ((wit user).inRteSlot = false ∧ (wit user).bl = false ∧ (wit user).pending = none) ∧
    ((witSlot user false).inRteSlot = false ∧ (witSlot user false).bl = false) ∧
    ((wit blocked).inRteSlot = false ∧ (wit blocked).bl = true ∧ (wit blocked).pending = none) ∧
      (witSlot user true).inRteSlot = true := by
  decide

theorem test_witness_ModeConditions :
    (modeAllows .rte (wit user) = false ∧ modeAllows .setdmx (wit privileged) = false ∧
      modeAllows (.stcSr 1) (wit user) = false) ∧
    (modeAllows (.trapa 1) (wit user) = true ∧ (wit user).pending = none ∧
      ∃ t, exec (.trapa 1) (wit user) = .next t ∧ (t.expevt == 0x160#32) = true) :=
  ⟨by decide, by decide, by decide, goesOn_iff.1 (by decide)⟩

theorem test_witness_SlotIllegalSet :
    (witSlot user false).pending.isSome = true ∧ slotIllegalAlways (.mova 1) = true ∧
      modeAllows .sleep (witSlot user false) = false ∧
      (decode 0x0009#16 = .ok .nop ∧ matchesAny [⟨0xFFFF#16, 0x0009#16⟩] 0x0009#16 = true) ∧
      (slotIllegalAlways (.movLLoad 3 1) = false ∧ modeAllows (.movLLoad 3 1) (witSlot user false) = true ∧
        ∃ t, exec (.movLLoad 3 1) (witSlot user false) = .next t ∧ (t.expevt == 0x0E0#32) = true) :=
  ⟨by decide, by decide, by decide, by decide, by decide, by decide, goesOn_iff.1 (by decide)⟩

/-- An odd address, and one that is 2 modulo 4; accesses of several forms; and a second operand alone misaligned. -/
theorem test_witness_MisalignedAccess :
    ((0x2001#32).toNat % 2 ≠ 0 ∧ (0x2002#32).toNat % 4 ≠ 0 ∧ (0x2001#32).toNat % 4 ≠ 0) ∧
    (firstAccess (.movWLoadIdx 3 1) (wit user) = some (.dataAddressErrorRead, 2, 0x2005#32) ∧
      mayExecute (.movWLoadIdx 3 1) (wit user) ∧
      firstAccess (.stcLMod 3) (witSlot userDsp false) = some (.dataAddressErrorWrite, 4, 0x1FFD#32) ∧
      mayExecute (.stcLMod 3) (witSlot userDsp false) ∧
      firstAccess (.movcoL 3) { wit user with ldst := true } = some (.dataAddressErrorWrite, 4, 0x2001#32) ∧
      mayExecute (.movcoL 3) { wit user with ldst := true }) ∧
    (Loads (wit user) ((wit user).r 1) (halfBytes (wit user) 0x0001#16) ∧
      Loads (wit user) ((wit user).r 1) (longBytes (wit user) 0x00017FFE#32) ∧
      ((wit user).r 3).toNat % 2 ≠ 0 ∧ ((wit user).r 3).toNat % 4 ≠ 0) := by
  unfold Loads mayExecute; decide

/-- The ends of the area, a longword across its lower end, and each kind of access. -/
theorem test_witness_PrivilegedAreaClosed :
    ((wit user).md = false ∧ (0x80000001#32).msb = true ∧ (0xFFFFFFFF#32).msb = true ∧
      (0x7FFFFFFD#32 + BitVec.ofNat 32 3).msb = true ∧
      (((wit user).setR 1 0x7FFFFFFE#32).r 1 + BitVec.ofNat 32 2).msb = true) ∧
    (firstAccess (.movBLoad 4 1) (wit user) = some (.dataAddressErrorRead, 1, 0x8C000000#32) ∧
      mayExecute (.movBLoad 4 1) (wit user) ∧ (0x8C000000#32).msb = true) ∧
    (({ wit user with pc := 0x80000000#32 } : State).pc.msb = true ∧
      ({ wit user with pc := 0x80000000#32 } : State).pc.toNat % 2 = 0 ∧
      ({ wit user with pc := 0x80000000#32 } : State).inRteSlot = false) ∧
    (((wit user).r 4).msb = true ∧ (wit user).pending = none) := by
  unfold mayExecute; decide

theorem test_witness_ControlRegistersMapped :
    (wit privileged).md = true ∧ (wit privileged).r 5 = 0xFF000000#32 ∧
      ((wit privileged).setR 6 0xFF000004#32).r 6 = 0xFF000004#32 ∧
      (((wit privileged).setR 6 0xFF000010#32).r 6 = 0xFF000010#32 ∧ ((wit privileged).r 5).getLsbD 0 = false ∧
        ((wit privileged).r 3).getLsbD 0 = true) ∧
      ((wit privileged).setR 6 0xFF000028#32).r 6 = 0xFF000028#32 := by
  decide

/-- Requests accepted at the lowest IMASK and at the highest (the non-maskable interrupt), ignored awake because of BL
and of IMASK, ignored asleep, and refused during SLEEP with BL = 1; and a slot. -/
theorem test_witness_InterruptAcceptance :
    (({ wit 0x40000000#32 with irq := [some ⟨1, 0x2A0#32⟩] } : State).irqNow = some ⟨1, 0x2A0#32⟩ ∧
      (wit 0x40000000#32).pending = none ∧ (wit 0x40000000#32).pc ∉ (wit 0x40000000#32).params.ends ∧
      (wit 0x40000000#32).rc = 0 ∧ (wit 0x40000000#32).bl = false ∧ (wit 0x40000000#32).imask.toNat < 1 ∧
      (wit privileged).bl = false ∧ (wit privileged).imask.toNat < 16) ∧
    ((wit blocked).asleep = false ∧ (wit blocked).bl = true ∧ (wit privileged).asleep = false ∧
      15 ≤ (wit privileged).imask.toNat) ∧
    (({ wit privileged with asleep := true, irq := [some ⟨15, 0#32⟩] } : State).asleep = true ∧
      ({ wit privileged with asleep := true, irq := [some ⟨15, 0#32⟩] } : State).irqNow = some ⟨15, 0#32⟩) ∧
    (({ wit blocked with asleep := true, irq := [some ⟨16, 0#32⟩] } : State).irqNow = some ⟨16, 0#32⟩ ∧
      ({ wit blocked with asleep := true } : State).asleep = true ∧ (wit blocked).rc = 0) ∧
    (witSlot user false).pending ≠ none := by
  refine ⟨?_, ?_, ?_, ?_, ?_⟩ <;> decide

theorem test_witness_RepeatLoopRefused :
    (wit 0x400110F0#32).pending = none ∧ ¬RunEnded (wit 0x400110F0#32) ∧ (wit 0x400110F0#32).rc ≠ 0 := by
  unfold RunEnded; decide

/-- Even addresses of END. -/
theorem test_witness_InvariantAtReset :
    ∀ a ∈ ({ vecParams .big with ends := [0x1000#32] } : Config.Params).ends, a.getLsbD 0 = false := by
  intro a ha
  obtain rfl : a = 0x1000#32 := by simpa using ha
  decide

/-- A read and a store of each size that the host answers, a read without an answer, and a read and a store whose last byte is
in no region. -/
theorem test_witness_DeviceAccesses :
    (AnswersRead { witDevice user with host := [.read 0x2001#32 1 0x80#32] } ((witDevice user).r 3) 1 0x80#32 ∧
      AnswersRead { witDevice user with host := [.read 0x2004#32 2 0x8000#32] } ((witDevice user).r 2) 2 0x8000#32 ∧
      AnswersRead { witDevice user with host := [.read 0x2004#32 4 1#32] } ((witDevice user).r 2) 4 1#32) ∧
    (AnswersWrite { witDevice user with host := [.written 0x2001#32 1] } ((witDevice user).r 3) 1 ∧
      AnswersWrite { witDevice user with host := [.written 0x2004#32 2] } ((witDevice user).r 2) 2 ∧
      AnswersWrite { witDevice user with host := [.written 0x2004#32 4] } ((witDevice user).r 2) 4) ∧
    (firstAccess (.movLLoad 2 1) (witDevice user) = some (.dataAddressErrorRead, 4, 0x2004#32) ∧
      mayExecute (.movLLoad 2 1) (witDevice user) ∧ (0x2004#32).toNat % 4 = 0 ∧
      (witDevice user).mayAccess 0x2004#32 = true ∧ (witDevice user).isDevice 0x2004#32 = true ∧
      (witDevice user).host = [] ∧ HostReadable (witDevice user) 0x2004#32 4) ∧
    (firstAccess (.movLLoad 1 2) (witEdge user) = some (.dataAddressErrorRead, 4, 0x2000#32) ∧
      mayExecute (.movLLoad 1 2) (witEdge user) ∧ HostReadable (witEdge user) 0x2000#32 3 ∧
      firstAccess (.movLStore 2 1) (witEdge user) = some (.dataAddressErrorWrite, 4, 0x2000#32) ∧
      mayExecute (.movLStore 2 1) (witEdge user) ∧ HostWritable (witEdge user) 0x2000#32 3 ∧
      (witEdge user).mayAccess 0x2000#32 = true ∧ (witEdge user).isDevice 0x2000#32 = true ∧
      isControl (0x2000#32 + BitVec.ofNat 32 3) = false ∧
      regionKind (witEdge user).params.memMap (0x2000#32 + BitVec.ofNat 32 3) = none) := by
  refine ⟨⟨?_, ?_, ?_⟩, ⟨?_, ?_, ?_⟩, ?_, ?_⟩
  all_goals first
    | (unfold AnswersRead HostReadable; decide)
    | (unfold AnswersWrite HostWritable; decide)
    | (unfold mayExecute HostReadable; decide)
    | (unfold mayExecute HostReadable HostWritable; decide)

/-- A TRAPA in user mode. -/
theorem test_witness_TransferToPrivileged :
    (wit user).md = false ∧ ∃ t, step ((wit user).placeWord 0xC301#16) = .next t ∧ t.md = true :=
  ⟨by decide, goesOn_iff.1 (by decide)⟩

/-- A step that ends in user mode. -/
theorem test_witness_UserModeIsolation :
    (wit user).md = false ∧ (∃ t, step (wit user) = .next t ∧ (!t.md) = true) ∧ (0x8C000000#32).msb = true :=
  ⟨by decide, goesOn_iff.1 (by decide), by decide⟩

/-- At a boundary and in a slot. -/
theorem test_witness_InvariantKept :
    ((wit user).Inv ∧ ∃ t, step (wit user) = .next t ∧ (t.pc == 0x1002#32) = true) ∧
    ((witSlot user false).Inv ∧ ∃ t, step (witSlot user false) = .next t ∧ (t.pc == 0x1004#32) = true) := by
  have h : (wit user).Inv :=
    ⟨by decide, by decide, by decide, by decide, by decide, by decide, by decide, by decide, (by intro p hp; cases hp),
      by decide⟩
  refine ⟨⟨h, goesOn_iff.1 (by decide)⟩, ⟨h.memory, h.dirty, h.tlb, h.srReserved, h.dsr, h.tra, h.guardBits, h.mmuOff,
    ?_, ?_⟩, goesOn_iff.1 (by decide)⟩
  · intro p hp; cases hp; decide
  · intro ha; cases ha

/-- An instruction that may write neither flag, and LDC to SR in user mode with SR.DSP = 1. -/
theorem test_witness_WritersOfTAndS :
    (writesT (.mulL 0 1) = false ∧ writesS (.mulL 0 1) = false ∧
      ∃ t, exec (.mulL 0 1) (wit user) = .next t ∧ (t.pc == 0x1002#32) = true) ∧
    ((wit userDsp).md = false ∧ ∃ t, exec (.ldcSr 0) (wit userDsp) = .next t ∧ (t.pc == 0x1002#32) = true) :=
  ⟨⟨by decide, by decide, goesOn_iff.1 (by decide)⟩, by decide, goesOn_iff.1 (by decide)⟩

end Sys2Proof.Machine
end

/-! PROOF. The invariant of the machine, and the writers of T and S: each is read off the ways an instruction ends
(`exec_ends`) and the ways a step ends (`step_ends`). -/

namespace Sys2Proof.Machine

section

variable {wt ws : Bool} {s u t : State} {o : Outcome}

/-! ## The reserved bits -/

/-- The reserved bits of SR, one by one (10_state.md R37). -/
theorem srReserved_iff (w : Word) :
    w &&& ~~~srMask = 0 ↔ ∀ k, (k = 31 ∨ 13 ≤ k ∧ k < 16) → w.getLsbD k = false := by
  have hm : ∀ k < 32, (~~~srMask).getLsbD k = decide (k = 31 ∨ 13 ≤ k ∧ k < 16) := by decide
  constructor
  · intro h k hk
    have hbit : (w &&& ~~~srMask).getLsbD k = false := by rw [h]; simp
    simpa only [BitVec.getLsbD_and, hm k (by omega), hk, decide_true, Bool.and_true] using hbit
  · intro h
    apply BitVec.eq_of_getLsbD_eq
    intro k hk
    rw [BitVec.getLsbD_and, hm k hk]
    by_cases hr : k = 31 ∨ 13 ≤ k ∧ k < 16
    · simp [h k hr]
    · simp [decide_eq_false hr]

/-- A write of SR under the mask leaves the reserved bits 0 (R37). -/
theorem srPrivilegedWrite_reserved (v : Word) : srPrivilegedWrite v &&& ~~~srMask = 0 := by
  rw [srPrivilegedWrite, BitVec.and_assoc]; simp

/-- Exception entry sets no reserved bit (60_exceptions.md R451). -/
theorem srOnEntry_reserved {w : Word} (h : w &&& ~~~srMask = 0) : srOnEntry w &&& ~~~srMask = 0 := by
  rw [srReserved_iff] at h ⊢
  intro k hk
  have h0 : (0x70000000#32).getLsbD k = false := by
    obtain rfl | rfl | rfl | rfl : k = 31 ∨ k = 13 ∨ k = 14 ∨ k = 15 := by omega
    all_goals rfl
  rw [srOnEntry, BitVec.getLsbD_or, h k hk, h0, Bool.or_false]

/-- TRAPA's value has only the bits of TRA that exist (10_state.md R46). -/
theorem traValue_reserved (i : BitVec 8) : (zext i <<< 2 : Word) &&& ~~~0x000003FC#32 = 0 := by
  revert i; decide

/-- An even address has bit 0 clear. -/
theorem getLsbD_zero_of_even {a : Word} (h : a.toNat % 2 = 0) : a.getLsbD 0 = false := by
  rw [BitVec.getLsbD, Nat.testBit_zero, h]; rfl

/-! ## The invariant through the ways an instruction ends -/

/-- The common entry sequence keeps the invariant. -/
theorem State.Inv.enter (h : s.Inv) (restart offset : Word) : (s.enter restart offset).Inv :=
  { h with srReserved := srOnEntry_reserved h.srReserved, slot := nofun, sleep := nofun }

/-- So does the entry of an exception, whose code the invariant does not speak of. -/
theorem State.Inv.enterException (h : s.Inv) (e : Exc) : (s.enterException e).Inv :=
  { h.enter (s.restartAddress e) (excEntry s.params.excTable e).offset with }

/-- And that of an interrupt. -/
theorem State.Inv.enterInterrupt (h : s.Inv) (q : IrqRequest) : (s.enterInterrupt q).Inv :=
  { h.enter s.pc (intEntry s.params.excTable q).offset with }

/-- A raise that answers a next state keeps the invariant. -/
theorem State.Inv.raise {e : Exc} (h : s.Inv) (hr : raise e s = .next t) : t.Inv := by
  obtain ⟨-, -, rfl⟩ := raise_next.1 hr
  exact h.enterException e

/-- What the body of an instruction keeps makes the invariant hold once the pc has advanced, for no branch is pending
then. -/
theorem State.Inv.advance (h : s.Inv) (k : Kept wt ws s u) : u.advance.Inv where
  memory := by simpa using k.memory h.memory
  dirty := by simpa using k.dirty h.dirty
  tlb := by simpa using k.tlb h.tlb
  srReserved := by
    rw [State.advance_sr, srReserved_iff]
    exact fun n hn => k.srReserved n hn ((srReserved_iff s.sr).1 h.srReserved n hn)
  dsr := by simpa only [State.advance_dsr] using k.dsr h.dsr
  tra := by simpa only [State.advance_tra, k.tra] using h.tra
  guardBits := by simpa only [State.advance_a0, State.advance_a0g] using k.guardBits h.guardBits
  mmuOff := by simpa only [State.advance_mmucr] using k.mmuOff h.mmuOff
  slot := by simp
  sleep := by simp

/-- A delayed branch of an awake machine from an even pc keeps the invariant, whatever SR and PR it leaves, if SR's
reserved bits are 0. -/
theorem State.Inv.delayed (h : s.Inv) (heven : s.pc.toNat % 2 = 0) (hawake : s.asleep = false) {w : Word}
    (hw : w &&& ~~~srMask = 0) (pr target : Word) (rte : Bool) :
    State.Inv { s with sr := w, pr := pr, pc := s.pc + 2, pending := some ⟨s.pc, target, rte⟩ } :=
  { h with
    srReserved := hw
    slot := by rintro p ⟨⟩; exact ⟨rfl, getLsbD_zero_of_even heven⟩
    sleep := fun ha => absurd (hawake.symm.trans ha) nofun }

/-- An instruction keeps the invariant, executed at an even pc, and awake where no slot makes it a boundary. -/
theorem Ends.inv (he : Ends wt ws s o) (h : s.Inv) (heven : s.pc.toNat % 2 = 0)
    (hawake : s.pending = none → s.asleep = false) (ho : o = .next t) : t.Inv := by
  rcases he t ho with ⟨e, hr⟩ | ⟨i, -, hr⟩ | ⟨u, hk, rfl⟩ | ⟨a, hp, rfl⟩ | ⟨a, p, hp, rfl⟩ | ⟨hp, -, -, -, hr⟩
  · exact h.raise hr
  · have htra : State.Inv { s with tra := zext i <<< 2 } := { h with tra := traValue_reserved i }
    exact htra.raise hr
  · exact h.advance hk
  · exact { h with slot := fun p hs => absurd (hp.symm.trans hs) nofun }
  · exact h.delayed heven (hawake hp) h.srReserved p a false
  · cases hr
    exact h.delayed heven (hawake hp) (srPrivilegedWrite_reserved _) s.pr s.spc true

end

/-- Settles O56: each way a step ends keeps the invariant. -/
theorem invariantKept : Obligations.InvariantKept := by
  intro s t h hstep
  rcases step_ends hstep with ⟨-, rfl⟩ | ⟨q, -, -, -, rfl⟩ | ⟨-, -, rfl⟩ | ⟨x, y, hs, hrun⟩
  · exact h
  · have htaken : s.irqTaken.Inv := { h with }
    exact htaken.enterInterrupt q
  · exact { h with }
  · have hused : State.Inv { s with irq := x, host := y } := { h with }
    rcases hrun with ⟨e, hr⟩ | ⟨i, heven, hi⟩
    · exact hused.raise hr
    · exact (exec_ends i _).inv hused heven (fun hp => hs.resolve_left (fun hne => hne hp)) hi

/-! ## The writers of T and S -/

section

variable {wt ws : Bool} {s t : State} {o : Outcome}

/-- Exception entry leaves T and S. -/
theorem raise_flags {e : Exc} (h : raise e s = .next t) : t.tBit = s.tBit ∧ t.sBit = s.sBit := by
  obtain ⟨-, -, rfl⟩ := raise_next.1 h
  simp [State.tBit, State.sBit, State.enterException, State.enter, srOnEntry]

/-- However an instruction ends, it leaves a flag that it may not write. -/
theorem Ends.flags (he : Ends wt ws s o) (ho : o = .next t) :
    (wt = false → t.tBit = s.tBit) ∧ (ws = false → t.sBit = s.sBit) := by
  rcases he t ho with ⟨e, hr⟩ | ⟨i, -, hr⟩ | ⟨u, hk, rfl⟩ | ⟨a, -, rfl⟩ | ⟨a, p, -, rfl⟩ | ⟨-, -, rfl, rfl, -⟩
  · exact ⟨fun _ => (raise_flags hr).1, fun _ => (raise_flags hr).2⟩
  · exact ⟨fun _ => (raise_flags hr).1, fun _ => (raise_flags hr).2⟩
  · simpa [State.tBit, State.sBit] using And.intro hk.tBit hk.sBit
  · exact ⟨fun _ => rfl, fun _ => rfl⟩
  · exact ⟨fun _ => rfl, fun _ => rfl⟩
  · exact ⟨nofun, nofun⟩

/-- A user program's write of SR writes neither T nor S (10_state.md R37, 47_dsp_control.md R392). -/
theorem Kept.srLoad_user (hm : s.md = false) (w : Word) : Kept false false s { s with sr := s.srLoad w } := by
  have hk : Kept true true s { s with sr := s.srLoad w } := Kept.srLoad w
  refine Kept.of_sr _ hk.srUser hk.srReserved (fun _ => ?_) (fun _ => ?_)
  all_goals simp [State.srLoad, hm, srUserDspWrite, State.tBit, State.sBit]

theorem ends_ldcSr_user (hm : s.md = false) (m : Reg) : Ends false false s (exec (.ldcSr m) s) :=
  ends_whenNotInSlot fun _ => ends_whenPrivilegedOrDsp (ends_done (Kept.srLoad_user hm _))

theorem ends_ldcLSr_user (hm : s.md = false) (m : Reg) : Ends false false s (exec (.ldcLSr m) s) := by
  refine ends_whenNotInSlot fun _ => ends_whenPrivilegedOrDsp (ends_complete fun u hu => ?_)
  obtain ⟨v, -, hu⟩ := access_bind_ok.1 hu
  dsimp only at hu
  split at hu
  · cases hu
  · cases hu
    exact ((Kept.srLoad_user hm v).trans (Kept.setR _ _)).trans (Kept.hostTaken _)

end

/-- Settles O59: T and S through each way an instruction ends, and through the LDC forms of SR in user mode. -/
theorem writersOfTAndS : Obligations.WritersOfTAndS := by
  intro s t i h
  obtain ⟨hT, hS⟩ := (exec_ends i s).flags h
  refine ⟨hT, hS, fun hm m hi => ?_⟩
  have user : Ends false false s (exec i s) := by
    rcases hi with rfl | rfl
    · exact ends_ldcSr_user hm m
    · exact ends_ldcLSr_user hm m
  obtain ⟨hT, hS⟩ := user.flags h
  exact ⟨hT rfl, hS rfl⟩

/-! ## Reset and launch -/

/-- The machine right after reset meets the invariant. -/
theorem State.reset_inv : State.reset.Inv where
  memory := Memory.wf_reset
  dirty := by decide
  tlb := by decide
  srReserved := by decide
  dsr := by decide
  tra := by decide
  guardBits := by decide
  mmuOff := by decide
  slot := nofun
  sleep := nofun

/-- A launch of a machine that meets the invariant leaves one that meets it: the launch clears what it names and puts
memory in its canonical form. -/
theorem State.Inv.launch {s : State} (h : s.Inv) (p : Config.Params) (image : List Host.Cell)
    (irq : List (Option IrqRequest)) (host : List HostAnswer) : (s.launch p image irq host).Inv :=
  { h with
    memory := Memory.wf_launchImage p.memMap image
    dirty := ⟨List.Pairwise.nil, nofun⟩
    tlb := rfl
    srReserved := by
      show s.sr &&& 0xF000FFFF#32 &&& ~~~srMask = 0
      rw [BitVec.and_assoc, BitVec.and_comm 0xF000FFFF#32, ← BitVec.and_assoc, h.srReserved]
      exact BitVec.zero_and
    mmuOff := by
      show (s.mmucr &&& 0xFFFFFFFE#32).getLsbD 0 = false
      rw [BitVec.getLsbD_and, h.mmuOff, Bool.false_and]
    slot := nofun
    sleep := nofun }

/-- A launch meets R475's premises, from whatever registers it starts, if the addresses of its END are even. -/
theorem launchPremises_launch (s : State) (p : Config.Params) (image : List Host.Cell)
    (irq : List (Option IrqRequest)) (host : List HostAnswer) (hends : ∀ a ∈ p.ends, a.getLsbD 0 = false) :
    LaunchPremises (s.launch p image irq host) where
  mmuOff := by
    show (s.mmucr &&& 0xFFFFFFFE#32).getLsbD 0 = false
    rw [BitVec.getLsbD_and, show (0xFFFFFFFE#32).getLsbD 0 = false by decide, Bool.and_false]
  clean := rfl
  awake := rfl
  unlinked := rfl
  noRepeat := by
    show (s.sr &&& 0xF000FFFF#32).extractLsb' 16 12 = 0
    rw [BitVec.extractLsb'_and, show (0xF000FFFF#32).extractLsb' 16 12 = 0#12 by decide]
    exact BitVec.and_zero
  boundary := rfl
  image := mem_launchImage p.memMap image
  ends := hends

/-- Settles O57: the values of reset, and what a launch sets. -/
theorem invariantAtReset : Obligations.InvariantAtReset := by
  have hreset : State.reset.launch defaultParams [] [] [] = State.reset := by rfl
  refine ⟨State.reset_inv, ?_, fun p image irq host hends =>
    ⟨State.reset_inv.launch p image irq host, launchPremises_launch _ p image irq host hends⟩⟩
  exact hreset ▸ launchPremises_launch State.reset defaultParams [] [] [] nofun

/-- Settles O58: the values written in `State.reset`, and its first fetch. -/
theorem resetValues : Obligations.ResetValues := by
  have hunmapped : regionKind State.reset.params.memMap 0xA0000000#32 = none := by decide
  have hfetch : fetch State.reset = .error (.fault (.unmapped 0xA0000000#32)) := by rfl
  refine ⟨rfl, by decide, rfl, rfl, rfl, rfl, rfl, rfl, fun _ => rfl, hunmapped, ?_⟩
  show runInstr State.reset.irqTaken = _
  rw [runInstr, show fetch State.reset.irqTaken = fetch State.reset from rfl, hfetch]
  rfl

end Sys2Proof.Machine

/-! PROOF. Completion statements of instructions that write the status register, the registers of the other bank, the
TLB or the pc: first the frames `Leaves` and `LeavesStored` at the end of an instruction, then the operations these
instructions are made of, then each statement. -/

namespace Sys2Proof.Machine

section

variable {s u v t : State} {o : Outcome} {i : Instr} {p : State → Prop}

/-! ## The end of an instruction in the terms of claims -/

/-- An instruction that is done with `u` completes with what holds of `u` after the pc has advanced. -/
theorem completes_of_done (h : exec i s = done u) (hp : p u.advance) : Completes i s p := ⟨_, h, hp⟩

/-- Once its mode check passes, an instruction does what follows the check. -/
theorem whenPrivileged_of_md (h : s.md = true) : whenPrivileged s o = o := if_pos h

theorem whenDsp_of_dsp (h : s.dsp = true) : whenDsp s o = o := if_pos h

theorem whenPrivilegedOrDsp_of_mode (h : (s.md || s.dsp) = true) : whenPrivilegedOrDsp s o = o := if_pos h

theorem whenNotInSlot_of_none (h : s.pending = none) : whenNotInSlot s o = o := by simp [whenNotInSlot, h]

theorem SameRest.refl (s : State) : SameRest s s := by constructor <;> rfl

/-- The advance of the pc changes no other register. -/
theorem SameRest.advance (h : SameRest v u) : SameRest v u.advance := by
  obtain ⟨⟩ := h
  constructor <;> simpa

theorem SameBanks.advance (h : SameBanks s u) : SameBanks s u.advance := by simpa [SameBanks] using h

theorem SameMemory.of_mem (h : u.mem = s.mem) : SameMemory s u := fun k => by rw [State.holds, h, State.holds]

theorem Advanced.advance (hpc : u.pc = s.pc) (hp : u.pending = s.pending) : Advanced s u.advance :=
  ⟨by rw [← hpc, ← hp]; exact u.advance_pc, u.advance_pending⟩

theorem Registers.advance {regs : Reg → Word} (h : Registers s regs u) : Registers s regs u.advance :=
  let ⟨hr, hbank⟩ := h
  ⟨fun i => by rw [State.advance_r, hr], fun b => by rw [State.advance_bankR, hbank]⟩

/-- An instruction whose body leaves the pc, memory and `dirty_code` leaves what its body does to the registers. -/
theorem Leaves.advance {regs : Reg → Word} {sr : Word} (hregs : Registers s regs u) (hsr : u.sr = sr)
    (hrest : SameRest v u) (hmem : u.mem = s.mem) (hdirty : u.dirtyCode = s.dirtyCode) (hpc : u.pc = s.pc)
    (hp : u.pending = s.pending) : Leaves s regs sr v u.advance where
  registers := hregs.advance
  status := by rw [State.advance_sr, hsr]
  rest := hrest.advance
  memory := SameMemory.of_mem (by rw [State.advance_mem, hmem])
  dirty := by rw [State.advance_dirtyCode, hdirty]
  next := Advanced.advance hpc hp

/-! ## Registers -/

/-- The general registers where nothing the current bank depends on has changed. -/
theorem Registers.of_banks (h : SameBanks s u) (hb : u.bankSel = s.bankSel) : Registers s s.r u :=
  let ⟨h0, h1, hhigh⟩ := h
  ⟨r_congr h0 h1 hhigh hb, bankR_congr h0 h1 hb⟩

theorem Registers.setR (s : State) (n : Reg) (w : Word) : Registers s (withReg s.r n w) (s.setR n w) :=
  ⟨fun i => State.setR_r s n i w, State.setR_bankR s n w⟩

theorem SameRest.setR (s : State) (n : Reg) (w : Word) : SameRest s (s.setR n w) := by constructor <;> simp

theorem SameRest.setBankR (s : State) (b : BankReg) (w : Word) : SameRest s (s.setBankR b w) := by
  constructor <;> simp

theorem SameRest.trans (h : SameRest s u) (g : SameRest u v) : SameRest s v := by
  obtain ⟨⟩ := h; obtain ⟨⟩ := g
  constructor <;> simp only [*]

/-- The registers of the other bank after a write, all at once. -/
theorem State.setBankR_bankR (s : State) (b c : BankReg) (w : Word) :
    (s.setBankR b w).bankR c = if c = b then w else s.bankR c := by
  split
  · subst_vars; simp
  · exact State.setBankR_bankR_ne s w (by assumption)

/-- STC: a register gets a value, and nothing else changes. -/
theorem Leaves.setR (s : State) (n : Reg) (w : Word) : Leaves s (withReg s.r n w) s.sr s (s.setR n w).advance :=
  Leaves.advance (Registers.setR s n w) (by simp) (SameRest.setR s n w) (by simp) (by simp) (by simp) (by simp)

/-! ## Loads and stores through a pointer -/

/-- A load through `@Rm+` from memory is done with the register written and Rm up by 4. -/
theorem popLong_of_loads {m : Reg} {w : Word} {k : Word → State} (h : Loads s (s.r m) (longBytes s w))
    (hp : (k w).params = s.params) : popLong s m k = done ((k w).setR m (s.r m + 4)) :=
  loadLong_of_loads (k := fun w => (k w).setR m (s.r m + 4)) h (by simpa using hp)

/-- A store through `@-Rn` to memory is done with the bytes stored and Rn down by 4. -/
theorem pushLong_of_storable {n : Reg} (w : Word) (h : Storable s (s.r n - 4) 4) :
    pushLong s n w = done ((s.putAt (s.r n - 4) (longBytes s w)).setR n (s.r n - 4)) := by
  rw [pushLong, storeLong, writeLong_of_storable h]; rfl

/-- The state after a store through `@-Rn`, in the terms of claims. -/
theorem LeavesStored.push (s : State) (n : Reg) (w : Word) :
    LeavesStored s (withReg s.r n (s.r n - 4)) s.sr s (s.r n - 4) (longBytes s w)
      ((s.putAt (s.r n - 4) (longBytes s w)).setR n (s.r n - 4)).advance where
  registers := (Registers.setR (s.putAt (s.r n - 4) (longBytes s w)) n (s.r n - 4)).advance
  status := by simp
  rest := by
    have hput : SameRest s (s.putAt (s.r n - 4) (longBytes s w)) := by constructor <;> simp
    exact (hput.trans (SameRest.setR _ _ _)).advance
  memory := fun k => by
    simpa [State.holds] using StoredAt_putAt s (s.r n - 4) (longBytes s w) (by simp [longBytes]) k
  dirty := fun b => by simpa using DirtiedAt_putAt s (s.r n - 4) (longBytes s w) b
  next := Advanced.advance (by simp) (by simp)

end
end Sys2Proof.Machine

namespace Sys2Proof.Machine

/-! ## Branches -/

section

variable {s : State} {i : Instr}

/-- A delayed branch completes with the slot instruction next and its target pending. -/
theorem completes_of_delayedBranch {target : Word} (h : exec i s = delayedBranch s target) :
    Completes i s (fun t => SameButPc s t ∧ t.pc = s.pc + 2 ∧ t.pending = some ⟨s.pc, target, false⟩) :=
  ⟨_, h, ⟨⟨rfl, rfl, rfl⟩, rfl, by constructor <;> rfl, fun _ => rfl, rfl⟩, rfl, rfl⟩

/-- A branch without a slot completes at its target. -/
theorem completes_of_jumpTo {target : Word} (hp : s.pending = none) (h : exec i s = jumpTo s target) :
    Completes i s (fun t => SameButPc s t ∧ t.pending = none ∧ t.pc = target) :=
  ⟨_, h, ⟨⟨rfl, rfl, rfl⟩, rfl, by constructor <;> rfl, fun _ => rfl, rfl⟩, hp, rfl⟩

/-- An instruction off a delay slot that does nothing is a jump to the next instruction. -/
theorem done_eq_jumpTo (hp : s.pending = none) : done s = jumpTo s (s.pc + 2) := by
  rw [done, State.advance_of_none hp, jumpTo]

theorem execBf_eq_jumpTo (hp : s.pending = none) (d : BitVec 8) :
    execBf d s = jumpTo s (if s.tBit then s.pc + 2 else s.branchTarget d) := by
  rw [execBf, whenNotInSlot_of_none hp, done_eq_jumpTo hp]
  split <;> rfl

theorem execBt_eq_jumpTo (hp : s.pending = none) (d : BitVec 8) :
    execBt d s = jumpTo s (if s.tBit then s.branchTarget d else s.pc + 2) := by
  rw [execBt, whenNotInSlot_of_none hp, done_eq_jumpTo hp]
  split <;> rfl

end

/-- Settles O17: off a delay slot each form is one delayed branch or one jump. -/
theorem branches : Obligations.Branches := by
  intro s d e n hp
  have slot (target : Word) : whenNotInSlot s (delayedBranch s target) = delayedBranch s target :=
    whenNotInSlot_of_none hp
  refine ⟨?bfS, ?btS, ?bra, ?braf, ?jmp, ?rts, ?bf, ?bt⟩
  case bf => exact completes_of_jumpTo hp (execBf_eq_jumpTo hp d)
  case bt => exact completes_of_jumpTo hp (execBt_eq_jumpTo hp d)
  all_goals exact completes_of_delayedBranch (slot _)

/-! ## The registers of the other bank -/

/-- LDC and LDC.L to a register of the other bank: what a write of that bank leaves, over a write `u` of the current one
(10_state.md R21). -/
theorem setBankR_setR_leaves (s : State) (b : BankReg) (m : Reg) (w x : Word) :
    let u := ((s.setBankR b w).setR m x).advance
    (∀ i, u.r i = withReg s.r m x i) ∧ (∀ c, u.bankR c = if c = b then w else s.bankR c) ∧ u.sr = s.sr ∧
      SameRest s u ∧ SameMemory s u ∧ u.dirtyCode = s.dirtyCode ∧ Advanced s u := by
  refine ⟨fun i => ?_, fun c => ?_, by simp, ?_, SameMemory.of_mem (by simp), by simp,
    Advanced.advance (by simp) (by simp)⟩
  · rw [State.advance_r, State.setR_r, State.setBankR_r, withReg]
  · rw [State.advance_bankR, State.setR_bankR, State.setBankR_bankR]
  · exact ((SameRest.setBankR s b w).trans (SameRest.setR _ m x)).advance

/-- Settles O25: in privileged mode each form is one write of the other bank, or of the current one, or a load or store
through a pointer. -/
theorem bankedRegisters : Obligations.BankedRegisters := by
  intro s m n b hm
  have run (o : Outcome) : whenPrivileged s o = o := whenPrivileged_of_md hm
  refine ⟨?ldc, fun v hl => ?ldcL, ?stc, fun hst => ?stcL⟩
  case ldc =>
    refine completes_of_done (run _) ⟨fun i => by simp, fun c => ?_, by simp, (SameRest.setBankR s b _).advance,
      SameMemory.of_mem (by simp), by simp, Advanced.advance (by simp) (by simp)⟩
    rw [State.advance_bankR, State.setBankR_bankR]
  case ldcL =>
    exact completes_of_done ((run _).trans (popLong_of_loads hl (by simp))) (setBankR_setR_leaves s b m v _)
  case stc => exact completes_of_done (run _) (Leaves.setR s n _)
  case stcL => exact completes_of_done ((run _).trans (pushLong_of_storable _ hst)) (LeavesStored.push s n _)

/-! ## LDTLB -/

/-- The field of `n` bits at `i` of a longword is the longword under the field's mask, shifted down. -/
theorem toNat_extractLsb'_eq_mask (w mask : Word) (i n : Nat) (hin : i + n ≤ 32)
    (hmask : ∀ k < 32, mask.getLsbD k = decide (i ≤ k ∧ k < i + n)) :
    (w.extractLsb' i n).toNat = ((w &&& mask) >>> i).toNat := by
  have h : (w &&& mask) >>> i = (w.extractLsb' i n).setWidth 32 := by
    apply BitVec.eq_of_getLsbD_eq
    intro k hk
    simp only [BitVec.getLsbD_ushiftRight, BitVec.getLsbD_and, BitVec.getLsbD_setWidth, BitVec.getLsbD_extractLsb', hk,
      decide_true, Bool.true_and]
    by_cases hkn : k < n
    · simp [hkn, hmask (i + k) (by omega)]
    · have hout : mask.getLsbD (i + k) = false := by
        by_cases h32 : i + k < 32
        · simp [hmask (i + k) h32, hkn]
        · exact BitVec.getLsbD_of_ge _ _ (by omega)
      simp [hkn, hout]
  rw [h, BitVec.toNat_setWidth, Nat.mod_eq_of_lt]
  exact Nat.lt_of_lt_of_le (w.extractLsb' i n).isLt (Nat.pow_le_pow_right (by omega) (by omega))

/-- SZ of an entry is bits 7 and 4 of PTEL, together (10_state.md R48). -/
theorem toNat_sz (w : Word) : (w.extractLsb' 7 1 ++ w.extractLsb' 4 1 : BitVec 2).toNat =
    (((w &&& 0x00000080#32) >>> 6) ||| ((w &&& 0x00000010#32) >>> 4)).toNat := by
  have h1 := toNat_extractLsb'_eq_mask w 0x00000080#32 7 1 (by omega) (by decide)
  have h0 := toNat_extractLsb'_eq_mask w 0x00000010#32 4 1 (by omega) (by decide)
  have h6 : (w &&& 0x00000080#32) >>> 6 = ((w &&& 0x00000080#32) >>> 7) <<< 1 := by
    apply BitVec.eq_of_getLsbD_eq
    intro k hk
    rcases k with _ | k
    · simp
    · simp [hk, show 7 + k = 6 + (k + 1) by omega]
  rw [BitVec.toNat_append, h1, h0, BitVec.toNat_or, h6, BitVec.toNat_shiftLeft, ← h1, Nat.mod_eq_of_lt]
  have := (w.extractLsb' 7 1).isLt
  rw [Nat.shiftLeft_eq]
  omega

/-- Settles O26: the load is one write of the TLB, of the entry `tlbEntryOf` makes, whose fields are read bit by bit. -/
theorem loadTlb : Obligations.LoadTlb := by
  intro s hm
  have run : exec .ldtlb s = complete s s.useLdtlb := whenPrivileged_of_md hm
  refine ⟨fun hr => ?_, rfl, fun hl => ?_⟩
  · rw [run, State.useLdtlb, hr]; rfl
  have hdone : exec .ldtlb s = done s.loadTlb := by rw [run, State.useLdtlb, hl]; rfl
  refine completes_of_done hdone ⟨?_, fun k hk => ?_, tlbEntryOf s.pteh s.ptel, ?_, ?_⟩
  · exact Leaves.advance ⟨fun _ => rfl, fun _ => rfl⟩ rfl (by constructor <;> simp) rfl rfl rfl rfl
  · rw [State.advance_tlb, State.loadTlb, assocGet_assocSet, if_neg]
    exact Ne.symm hk
  · rw [State.advance_tlb, State.loadTlb, assocGet_assocSet, if_pos]
    rfl
  · refine ⟨?_, ?_, ?_, toNat_sz s.ptel, ?_, ?_, ?_, ?_, ?_, ?_⟩
    all_goals exact toNat_extractLsb'_eq_mask _ _ _ _ (by omega) (by decide)

/-! ## SLEEP and waiting -/

/-- Settles O27: the branches that `step` takes awake, asleep and at the end of a run. -/
theorem sleepAndWait : Obligations.SleepAndWait := by
  refine ⟨fun s hm => ?sleep, fun s hp ha hend hrc hirq => ?wait, fun s hend => ?ended⟩
  case sleep =>
    exact completes_of_done (whenPrivileged_of_md hm)
      (Leaves.advance ⟨fun _ => rfl, fun _ => rfl⟩ rfl (SameRest.refl _) rfl rfl rfl rfl)
  case wait =>
    have hgo : s.runEnded = false := by rwa [← Bool.not_eq_true, runEnded_iff]
    simp only [step, hp, Option.isSome_none, runBoundary, hgo, hrc, hirq, runUnlessAsleep, State.irqTaken, ha]
    rfl
  case ended =>
    have ⟨hp, _⟩ := hend
    simp [step, hp, runBoundary, (runEnded_iff s).2 hend]

/-! ## Bits of SR -/

/-- SR after DMX and DMY are written: bits 10 and 11 (10_state.md R34). -/
theorem setDmxDmy_sr (s : State) (x y : Bool) : (s.setDmxDmy x y).sr =
    (s.sr &&& 0xFFFFF3FF#32) ||| ((if x then 0x00000400#32 else 0#32) ||| (if y then 0x00000800#32 else 0#32)) := by
  have hmask : ∀ k < 32, (0xFFFFF3FF#32).getLsbD k = decide (k ≠ 10 ∧ k ≠ 11) := by decide
  have hx : ∀ k < 32, (if x then 0x00000400#32 else 0#32).getLsbD k = (x && decide (k = 10)) := by
    cases x <;> decide
  have hy : ∀ k < 32, (if y then 0x00000800#32 else 0#32).getLsbD k = (y && decide (k = 11)) := by
    cases y <;> decide
  apply BitVec.eq_of_getLsbD_eq
  intro k hk
  rw [State.setDmxDmy, getLsbD_withBit _ _ _ _ (by omega), getLsbD_withBit _ _ _ _ (by omega), BitVec.getLsbD_or,
    BitVec.getLsbD_or, BitVec.getLsbD_and, hmask k hk, hx k hk, hy k hk]
  by_cases h10 : k = 10
  · simp [h10]
  by_cases h11 : k = 11
  · simp [h11]
  simp [h10, h11, Ne.symm h10, Ne.symm h11]

@[simp] theorem State.setDmxDmy_bankSel (s : State) (x y : Bool) : (s.setDmxDmy x y).bankSel = s.bankSel := by
  have h10 : State.bankSel { s with sr := withBit s.sr 10 x } = s.bankSel := bankSel_withBit s _ 10 x (by omega) rfl
  exact (bankSel_withBit { s with sr := withBit s.sr 10 x } (s.setDmxDmy x y) 11 y (by omega) rfl).trans h10

/-- A write of DMX and DMY leaves SR with those bits and nothing else changed. -/
theorem Leaves.setDmxDmy (s : State) (x y : Bool) : Leaves s s.r ((s.sr &&& 0xFFFFF3FF#32) |||
    ((if x then 0x00000400#32 else 0#32) ||| (if y then 0x00000800#32 else 0#32))) s (s.setDmxDmy x y).advance :=
  Leaves.advance (Registers.of_banks ⟨rfl, rfl, rfl⟩ (s.setDmxDmy_bankSel x y)) (setDmxDmy_sr s x y)
    (by constructor <;> rfl) rfl rfl rfl rfl

/-- Settles O42: each form is one write of DMX and DMY. -/
theorem moduloBits : Obligations.ModuloBits := by
  intro s hd
  refine ⟨?clear, ?dmx, ?dmy⟩
  all_goals refine completes_of_done (whenDsp_of_dsp hd) ?_
  case clear => simpa using Leaves.setDmxDmy s false false
  case dmx => simpa using Leaves.setDmxDmy s true false
  case dmy => simpa using Leaves.setDmxDmy s false true

end Sys2Proof.Machine

namespace Sys2Proof.Machine

/-! ## The whole of SR -/

section

variable {s : State}

/-- LDC.L @Rm+,SR from memory: the load, then SR and Rm, unless Rm is in a bank that SR takes away (47_dsp_control.md
R396; log 24). -/
theorem execLdcLSr_of_loads {m : Reg} {v : Word} (hp : s.pending = none) (hm : (s.md || s.dsp) = true)
    (h : Loads s (s.r m) (longBytes s v)) : execLdcLSr m s =
      if State.bankSel { s with sr := s.srLoad v } != s.bankSel && !m.msb then .refused .bankSwitchOfPointer
      else done (State.setR { s with sr := s.srLoad v } m (s.r m + 4)) := by
  rw [execLdcLSr, whenNotInSlot_of_none hp, whenPrivilegedOrDsp_of_mode hm, readLong_of_loads h]
  simp only [bind, Except.bind]
  split
  · rfl
  · rw [hostTaken_of_loads h (by simp)]; rfl

/-- R8 to R15 are in no bank. -/
theorem eight_le_iff_msb (m : Reg) : (8 : Reg) ≤ m ↔ m.msb = true := by revert m; decide

end

/-- Settles O43: each form passes its checks, and is a write of SR, a write of a register, or a load or store through a
pointer. -/
theorem statusRegisterMoves : Obligations.StatusRegisterMoves := by
  intro s m n hm
  have run (o : Outcome) : whenPrivilegedOrDsp s o = o := whenPrivilegedOrDsp_of_mode hm
  refine ⟨⟨fun hp => ?ldc, fun v hp hl => ⟨fun hb => ?ldcL, fun hlow hb => ?refused⟩⟩, ?stc, fun hst => ?stcL⟩
  case ldc =>
    refine completes_of_done ((whenNotInSlot_of_none hp).trans (run _)) ⟨State.advance_sr _, ?_, ?_,
      SameMemory.of_mem (by simp), by simp, Advanced.advance rfl rfl⟩
    · exact SameBanks.advance ⟨rfl, rfl, rfl⟩
    · exact SameRest.advance (by constructor <;> rfl)
  case ldcL =>
    have hstay : ¬ (State.bankSel { s with sr := s.srLoad v } != s.bankSel && !m.msb) = true := by
      rcases hb with hb | hb
      · simp [(eight_le_iff_msb m).1 hb]
      · simp [show State.bankSel { s with sr := s.srLoad v } = s.bankSel from hb]
    refine completes_of_done ((execLdcLSr_of_loads hp hm hl).trans (if_neg hstay)) ⟨?_, ?_, ?_,
      SameMemory.of_mem (by simp), fun i hi => ?_, fun b => ?_, by simp, Advanced.advance (by simp) (by simp)⟩
    · rw [State.advance_sr, State.setR_sr]; rfl
    · rw [State.advance_r, State.setR_r_same]; rfl
    · have hsr : SameRest s { s with sr := s.srLoad v } := by constructor <;> rfl
      exact (hsr.trans (SameRest.setR _ _ _)).advance
    · rw [State.advance_r, State.setR_r_ne _ _ hi]; rfl
    · rw [State.advance_bankR, State.setR_bankR]; rfl
  case refused =>
    refine (execLdcLSr_of_loads hp hm hl).trans (if_pos ?_)
    have hmsb : m.msb = false := by
      rw [← Bool.not_eq_true, ← eight_le_iff_msb, BitVec.not_le]
      exact hlow
    have hb : State.bankSel { s with sr := s.srLoad v } ≠ s.bankSel := hb
    simp [hmsb, hb]
  case stc => exact completes_of_done (run _) (Leaves.setR s n s.sr)
  case stcL => exact completes_of_done ((run _).trans (pushLong_of_storable _ hst)) (LeavesStored.push s n s.sr)

/-! ## The repeat counter -/

section

variable {s : State} {i : Instr} {c : BitVec 12}

/-- SR, bit by bit, after RC, RF1 and RF0 are written (47_dsp_control.md R418). -/
theorem getLsbD_setRepeat (s : State) (c : BitVec 12) (x y : Bool) {k : Nat} (hk : k < 32) :
    (s.setRepeat c x y).sr.getLsbD k =
      if k = 2 then y else if k = 3 then x else if 16 ≤ k ∧ k < 28 then c.getLsbD (k - 16) else s.sr.getLsbD k := by
  have hmask : ∀ k < 32, (0xF000FFFF#32).getLsbD k = decide (¬ (16 ≤ k ∧ k < 28)) := by decide
  rw [State.setRepeat, getLsbD_withBit _ _ _ _ (by omega), getLsbD_withBit _ _ _ _ (by omega)]
  simp only [@eq_comm Nat 2, @eq_comm Nat 3, BitVec.getLsbD_or, BitVec.getLsbD_and, hmask k hk,
    BitVec.getLsbD_shiftLeft, BitVec.getLsbD_setWidth, hk, decide_true, Bool.true_and]
  by_cases hr : 16 ≤ k ∧ k < 28
  · simp [hr, show ¬ k < 16 by omega, show k - 16 < 32 by omega]
  · by_cases h16 : k < 16
    · simp [h16, show ¬ 16 ≤ k by omega]
    · simp [h16, hr, BitVec.getLsbD_of_ge c (k - 16) (by omega)]

/-- SR but for RF1 and RF0, which are drawn (R35, R36). -/
theorem setRepeat_sr_masked (s : State) (c : BitVec 12) (x y : Bool) :
    (s.setRepeat c x y).sr &&& 0xFFFFFFF3#32 = (s.sr &&& 0xF000FFF3#32) ||| (c.setWidth 32 <<< 16) := by
  have hkeep : ∀ k < 32, (0xFFFFFFF3#32).getLsbD k = decide (k ≠ 2 ∧ k ≠ 3) := by decide
  have hmask : ∀ k < 32, (0xF000FFF3#32).getLsbD k = decide (k ≠ 2 ∧ k ≠ 3 ∧ ¬ (16 ≤ k ∧ k < 28)) := by decide
  apply BitVec.eq_of_getLsbD_eq
  intro k hk
  rw [BitVec.getLsbD_and, getLsbD_setRepeat s c x y hk, hkeep k hk]
  simp only [BitVec.getLsbD_or, BitVec.getLsbD_and, hmask k hk, BitVec.getLsbD_shiftLeft, BitVec.getLsbD_setWidth, hk,
    decide_true, Bool.true_and]
  by_cases hf : k = 2 ∨ k = 3
  · rcases hf with rfl | rfl <;> simp
  · obtain ⟨h2, h3⟩ := not_or.1 hf
    by_cases hr : 16 ≤ k ∧ k < 28
    · simp [h2, h3, hr, show ¬ k < 16 by omega, show k - 16 < 32 by omega]
    · by_cases h16 : k < 16
      · simp [h2, h3, h16, show ¬ 16 ≤ k by omega]
      · simp [h2, h3, h16, hr, BitVec.getLsbD_of_ge c (k - 16) (by omega)]

@[simp] theorem State.setRepeat_bankSel (s : State) (c : BitVec 12) (x y : Bool) :
    (s.setRepeat c x y).bankSel = s.bankSel := by
  rw [State.bankSel, State.md, State.rb, getLsbD_setRepeat _ _ _ _ (by omega), getLsbD_setRepeat _ _ _ _ (by omega)]
  rfl

/-- `t` follows an instruction at `s` that sets the repeat counter to `c`: RC is `c`, RF1 and RF0 are drawn, RE is `re`,
and nothing else changes. -/
def RepeatSet (s : State) (c : BitVec 12) (re : Word) (t : State) : Prop :=
  Registers s s.r t ∧ t.sr &&& 0xFFFFFFF3#32 = ((s.sr &&& 0xF000FFF3#32) ||| (c.setWidth 32 <<< 16)) ∧
    SameRest { s with re := re, freeCount := t.freeCount } t ∧ SameMemory s t ∧ t.dirtyCode = s.dirtyCode ∧ Advanced s t

/-- Such is the state with the fields the instruction writes, whatever is drawn. -/
theorem repeatSet_advance (s : State) (c : BitVec 12) (x y : Bool) (re : Word) (k : Nat) :
    RepeatSet s c re (State.advance { s.setRepeat c x y with re := re, freeCount := k }) := by
  refine ⟨Registers.advance (Registers.of_banks ⟨rfl, rfl, rfl⟩ (s.setRepeat_bankSel c x y)), ?_, ?_,
    SameMemory.of_mem (by simp), by simp, Advanced.advance rfl rfl⟩
  · rw [State.advance_sr]; exact setRepeat_sr_masked s c x y
  · exact SameRest.advance (by constructor <;> simp)

/-- A count that is not 0 is set, with RF1 and RF0 drawn (R418). -/
theorem setRepeatCount_of_ne_zero (s : State) (hc : c ≠ 0#12) : setRepeatCount s c =
    .ok { s.setRepeat c ((Config.freeBit s.freeCount).getLsbD 0) ((Config.freeBit (s.freeCount + 1)).getLsbD 0) with
      freeCount := s.freeCount + 2 } := if_neg hc

/-- A count of 0 is refused (R418). -/
theorem setRepeatCount_zero (s : State) : setRepeatCount s 0#12 = .error (.refused .repeatCountZero) := if_pos rfl

/-- SETRC with a count that is not 0 sets it. -/
theorem completes_setRepeatCount (h : exec i s = complete s (setRepeatCount s c)) (hc : c ≠ 0#12) :
    Completes i s (RepeatSet s c s.re) := by
  rw [setRepeatCount_of_ne_zero s hc] at h
  exact completes_of_done h (repeatSet_advance s c _ _ s.re _)

/-- LDRC sets it and marks RE. -/
theorem completes_setRepeatCount_marked
    (h : exec i s = complete s ((setRepeatCount s c).map (·.markExtendedRepeat))) (hc : c ≠ 0#12) :
    Completes i s (RepeatSet s c (s.re ||| 1#32)) := by
  rw [setRepeatCount_of_ne_zero s hc] at h
  exact completes_of_done h (repeatSet_advance s c _ _ (s.re ||| 1#32) _)

end

/-- Settles O44: each form sets the count, or is refused, as `setRepeatCount` says. -/
theorem repeatCounts : Obligations.RepeatCounts := by
  intro s m i hd
  have hreg : (s.r m).extractLsb' 0 12 = (s.r m).setWidth 12 := (BitVec.setWidth_eq_extractLsb' (by omega)).symm
  have setrc : exec (.setrc m) s = complete s (setRepeatCount s ((s.r m).setWidth 12)) :=
    hreg ▸ whenDsp_of_dsp hd
  have ldrc : exec (.ldrc m) s = complete s ((setRepeatCount s ((s.r m).setWidth 12)).map (·.markExtendedRepeat)) :=
    hreg ▸ whenDsp_of_dsp hd
  have setrcImm : exec (.setrcImm i) s = complete s (setRepeatCount s (i.setWidth 12)) := whenDsp_of_dsp hd
  have ldrcImm : exec (.ldrcImm i) s = complete s ((setRepeatCount s (i.setWidth 12)).map (·.markExtendedRepeat)) :=
    whenDsp_of_dsp hd
  refine ⟨completes_setRepeatCount setrc, completes_setRepeatCount setrcImm, completes_setRepeatCount_marked ldrc,
    completes_setRepeatCount_marked ldrcImm, fun h0 => ?reg, ?imm⟩
  case reg => rw [setrc, ldrc, h0, setRepeatCount_zero]; exact ⟨rfl, rfl⟩
  case imm =>
    rintro rfl
    rw [setrcImm, ldrcImm, show (0#8).setWidth 12 = 0#12 from rfl, setRepeatCount_zero]
    exact ⟨rfl, rfl⟩

end Sys2Proof.Machine

/-! PROOF. What user mode cannot reach: a step from user mode, read off the ways an instruction ends (`exec_ends`) and
the ways a step ends (`step_ends`). -/

namespace Sys2Proof.Machine

section

variable {wt ws : Bool} {s u t : State} {o : Outcome}

/-- `t` holds what user mode at `s` cannot change: the privileged area, the privileged registers but those an entry
saves, BANK1, and, if `t` is in user mode, the saved registers and the fields of SR that fix the mode, the bank and the
interrupt mask as well (60_exceptions.md R469, R470, R473). -/
structure UserIsolated (s t : State) : Prop where
  memory : ∀ a : Word, a.msb = true → t.holds a = s.holds a
  vbr : t.vbr = s.vbr
  dbr : t.dbr = s.dbr
  pteh : t.pteh = s.pteh
  ptel : t.ptel = s.ptel
  mmucr : t.mmucr = s.mmucr
  tlb : t.tlb = s.tlb
  bank1 : t.bank1 = s.bank1
  saved : t.md = false → t.ssr = s.ssr ∧ t.spc = s.spc ∧ t.sgr = s.sgr
  mode : t.md = false → t.rb = s.rb ∧ t.bl = s.bl ∧ t.imask = s.imask

theorem UserIsolated.refl (s : State) : UserIsolated s s :=
  ⟨fun _ _ => rfl, rfl, rfl, rfl, rfl, rfl, rfl, rfl, fun _ => ⟨rfl, rfl, rfl⟩, fun _ => ⟨rfl, rfl, rfl⟩⟩

/-- Entry makes the mode privileged (R451). -/
theorem State.enter_md (s : State) (restart offset : Word) : (s.enter restart offset).md = true := by
  simp [State.md, State.enter, srOnEntry]

/-- The common entry sequence ends in privileged mode and changes SSR, SPC, SGR and SR alone of what is isolated. -/
theorem UserIsolated.enter (s : State) (restart offset : Word) : UserIsolated s (s.enter restart offset) :=
  { UserIsolated.refl s with
    saved := fun hm => absurd ((s.enter_md restart offset).symm.trans hm) nofun
    mode := fun hm => absurd ((s.enter_md restart offset).symm.trans hm) nofun }

/-- So do the entry of an exception and that of an interrupt, whose codes are not isolated. -/
theorem UserIsolated.enterException (s : State) (e : Exc) : UserIsolated s (s.enterException e) :=
  { UserIsolated.enter s (s.restartAddress e) (excEntry s.params.excTable e).offset with }

theorem UserIsolated.enterInterrupt (s : State) (q : IrqRequest) : UserIsolated s (s.enterInterrupt q) :=
  { UserIsolated.enter s s.pc (intEntry s.params.excTable q).offset with }

theorem UserIsolated.raise {e : Exc} (h : raise e s = .next t) : UserIsolated s t := by
  obtain ⟨-, -, rfl⟩ := raise_next.1 h
  exact UserIsolated.enterException s e

/-- The interrupt mask is four bits of SR (10_state.md R29). -/
theorem imask_congr (h : ∀ k, 4 ≤ k → k < 8 → u.sr.getLsbD k = s.sr.getLsbD k) : u.imask = s.imask := by
  apply BitVec.eq_of_getLsbD_eq
  intro k hk
  simp only [State.imask, BitVec.getLsbD_extractLsb', hk, decide_true, Bool.true_and]
  exact h (4 + k) (by omega) (by omega)

/-- What the body of an instruction keeps in user mode is isolated, and the advance of the pc changes none of it. -/
theorem Kept.userIsolated (h : Kept wt ws s u) (hm : s.md = false) : UserIsolated s u.advance where
  memory a ha := by simpa [State.holds] using h.userMemory hm a ha
  vbr := by simpa using h.vbr hm
  dbr := by simpa using h.dbr hm
  pteh := by simpa using h.pteh hm
  ptel := by simpa using h.ptel hm
  mmucr := by simpa using h.mmucr hm
  tlb := by simpa using h.tlbUser hm
  bank1 := by simpa using h.bank1 hm
  saved _ := by simpa using ⟨h.ssr hm, h.spc hm, h.sgr hm⟩
  mode _ := by
    have hbit := h.srUser hm
    rw [← u.advance_sr] at hbit
    exact ⟨hbit 29 (by omega), hbit 28 (by omega), imask_congr fun k h4 h8 => hbit k (Or.inr ⟨h4, h8⟩)⟩

/-- However an instruction ends in user mode, what is isolated stays as it was. -/
theorem Ends.userIsolated (he : Ends wt ws s o) (hm : s.md = false) (ho : o = .next t) : UserIsolated s t := by
  rcases he t ho with ⟨e, hr⟩ | ⟨i, -, hr⟩ | ⟨u, hk, rfl⟩ | ⟨a, -, rfl⟩ | ⟨a, p, -, rfl⟩ | ⟨-, hp, -⟩
  · exact UserIsolated.raise hr
  · exact { UserIsolated.raise hr with }
  · exact hk.userIsolated hm
  · exact { UserIsolated.refl s with }
  · exact { UserIsolated.refl s with }
  · exact absurd (hp.symm.trans hm) nofun

/-- So it does however a step from user mode ends. -/
theorem step_userIsolated (hm : s.md = false) (h : step s = .next t) : UserIsolated s t := by
  rcases step_ends h with ⟨-, rfl⟩ | ⟨q, -, -, -, rfl⟩ | ⟨-, -, rfl⟩ | ⟨x, y, -, ⟨e, hr⟩ | ⟨i, -, hi⟩⟩
  · exact UserIsolated.refl t
  · exact { UserIsolated.enterInterrupt s.irqTaken q with }
  · exact { UserIsolated.refl s with }
  · exact { UserIsolated.raise hr with }
  · have hused : State.md { s with irq := x, host := y } = false := hm
    exact { (exec_ends i _).userIsolated hused hi with }

end

/-- Settles O55: a step from user mode keeps what is isolated. -/
theorem userModeIsolation : Obligations.UserModeIsolation := by
  intro s t hm h
  obtain ⟨hmem, hvbr, hdbr, hpteh, hptel, hmmucr, htlb, hbank1, hsaved, hmode⟩ := step_userIsolated hm h
  refine ⟨hmem, hvbr, hdbr, hpteh, hptel, hmmucr, htlb, hbank1, fun ht => ?_⟩
  obtain ⟨hssr, hspc, hsgr⟩ := hsaved ht
  exact ⟨hssr, hspc, hsgr, hmode ht⟩

end Sys2Proof.Machine

/-! PROOF. Statements about memory and its accesses: when a fetch and a load from any address complete, the accesses
that end in an address error, and the registers mapped in the address space. -/

namespace Sys2Proof.Machine

/-! ## Fetching -/

section

variable {s : State} {x : Unit}

/-- The check of the mode that a fetch makes: none in RTE's slot, whose fetch is under the mode before RTE (20_memory.md
R73). -/
def checkFetchMode (s : State) : Access Unit :=
  if s.inRteSlot then pure () else checkPrivilege s s.pc .instructionAddressError

/-- A fetch is its checks around the word at the pc. -/
theorem fetch_eq (s : State) : fetch s = (do
    checkAligned s.pc 2 .instructionAddressError
    checkFetchMode s
    let w ← wordAt s s.pc
    checkFresh s
    pure w) := by
  unfold fetch checkFetchMode
  split <;> rfl

theorem checkFetchMode_ok : checkFetchMode s = .ok x ↔ s.mayAccess s.pc = true ∨ s.inRteSlot = true := by
  unfold checkFetchMode
  cases s.inRteSlot
  · simp [checkPrivilege_ok]
  · simp [pure, Except.pure]

/-- A block no store has dirtied is fresh (R89). -/
theorem checkFresh_ok : checkFresh s = .ok x ↔ (blockOf s.pc).toNat ∉ s.dirtyCode := by
  unfold checkFresh; split <;> simp_all

end

/-- Settles O6: the checks of a fetch and the word at the pc, each exactly. -/
theorem fetchCompletes : Obligations.FetchCompletes := by
  intro s w
  simp only [fetch_eq, access_bind_ok, checkAligned_ok, checkFetchMode_ok, checkFresh_ok, wordAt_ok, pure, Except.pure,
    Except.ok.injEq]
  constructor
  · rintro ⟨-, heven, -, hmode, w, hword, -, hfresh, rfl⟩
    exact ⟨heven, hmode, hfresh, hword⟩
  · rintro ⟨heven, hmode, hfresh, hword⟩
    exact ⟨(), heven, (), hmode, w, hword, (), hfresh, rfl⟩

/-! ## MOVUA.L -/

section

variable {s u : State} {v : Word}

/-- The registers after a load through `@Rm+`: Rm is up by the size, unless it got the value. -/
theorem Registers.loadInc (s : State) (m n : Reg) (size v : Word) :
    Registers s (if m = n then withReg s.r n v else withReg (withReg s.r n v) m (s.r m + size))
      (s.loadInc m n size v) := by
  simp only [State.loadInc, @eq_comm Reg n m]
  split
  · exact Registers.setR s n v
  · refine ⟨fun i => ?_, fun b => by simp⟩
    simp only [State.setR_r, withReg]

/-- It writes nothing but general registers. -/
theorem SameRest.loadInc (s : State) (m n : Reg) (size v : Word) : SameRest s (s.loadInc m n size v) := by
  unfold State.loadInc
  split
  · exact SameRest.setR s n v
  · exact (SameRest.setR s n v).trans (SameRest.setR _ m _)

theorem loadInc_frame (s : State) (m n : Reg) (size v : Word) :
    (s.loadInc m n size v).sr = s.sr ∧ (s.loadInc m n size v).mem = s.mem ∧
      (s.loadInc m n size v).dirtyCode = s.dirtyCode ∧ (s.loadInc m n size v).pc = s.pc ∧
      (s.loadInc m n size v).pending = s.pending := by
  unfold State.loadInc; split <;> simp

theorem SameRest.hostTaken (h : SameRest s u) (a : Word) : SameRest (s.hostTaken a) (u.hostTaken a) := by
  have hhost : (u.hostTaken a).host = (s.hostTaken a).host := by
    unfold State.hostTaken
    rw [isDevice_congr h.params]
    split
    · exact congrArg List.tail h.host
    · exact h.host
  obtain ⟨⟩ := h
  constructor <;> simpa

/-- What a load leaves: what its body writes to registers, with the host's answer used up where the address is in a
device region (60_exceptions.md R475). -/
theorem Leaves.load {regs : Reg → Word} (a : Word) (hregs : Registers s regs u) (hrest : SameRest s u)
    (hsr : u.sr = s.sr) (hmem : u.mem = s.mem) (hdirty : u.dirtyCode = s.dirtyCode) (hpc : u.pc = s.pc)
    (hp : u.pending = s.pending) : Leaves s regs s.sr (s.hostTaken a) (u.hostTaken a).advance := by
  obtain ⟨hr, hbank⟩ := hregs
  refine Leaves.advance ⟨fun i => (hr i).symm ▸ ?_, fun b => (hbank b).symm ▸ ?_⟩ ?_ (hrest.hostTaken a) ?_ ?_ ?_ ?_
  · exact r_congr (by simp) (by simp) (by simp) (bankSel_congr (by simp)) i
  · exact bankR_congr (by simp) (by simp) (bankSel_congr (by simp)) b
  all_goals simpa

/-- MOVUA.L of what `MemReadUnaligned` answers, with either form of its pointer. -/
theorem completes_movuaL {m : Reg} (h : readUnaligned s (s.r m) = .ok v) :
    Completes (.movuaL m) s (Leaves s (withReg s.r 0 v) s.sr (s.hostTaken (s.r m))) ∧
      Completes (.movuaLInc m) s (Leaves s (if m = 0 then withReg s.r 0 v
        else withReg (withReg s.r 0 v) m (s.r m + 4#32)) s.sr (s.hostTaken (s.r m))) := by
  have run (k : Word → State) : loadUnaligned s (s.r m) k = done ((k v).hostTaken (s.r m)) := by
    rw [loadUnaligned, h]; rfl
  obtain ⟨hsr, hmem, hdirty, hpc, hp⟩ := loadInc_frame s m 0 4 v
  refine ⟨completes_of_done (run _) ?_, completes_of_done (run _) ?_⟩
  · exact Leaves.load _ (Registers.setR s 0 v) (SameRest.setR s 0 v) (by simp) (by simp) (by simp) (by simp) (by simp)
  · exact Leaves.load _ (Registers.loadInc s m 0 4 v) (SameRest.loadInc s m 0 4 v) hsr hmem hdirty hpc hp

end

/-- Settles O37: what `MemReadUnaligned` answers, from memory, from the host, or as a fault. -/
theorem unalignedLoad : Obligations.UnalignedLoad := by
  intro s m loaded
  refine ⟨fun v h => ?memory, fun v hacc hd hr hh => ?device, fun k hk hacc hreach hu => ?unmapped⟩
  case memory =>
    obtain ⟨hread, hd⟩ := readUnaligned_of_readable h
    have hload := completes_movuaL hread
    rwa [hostTaken_of_not_device hd] at hload
  case device =>
    have hload := completes_movuaL (readUnaligned_of_answers hacc hd hr hh)
    rwa [hostTaken_of_device hd] at hload
  case unmapped =>
    have hstop (f : Word → State) :
        loadUnaligned s (s.r m) f = .fault (.unmapped (s.r m + BitVec.ofNat 32 k)) := by
      rw [loadUnaligned, readUnaligned_unmapped hacc hk hreach hu]; rfl
    exact ⟨hstop _, hstop _⟩

/-! ## Accesses that end in an address error -/

section

variable {s : State} {α : Type} {a : Word} {size : Nat} {e : Exc}

/-- The checks of alignment and mode deny an access of `size` bytes at `a` (20_memory.md R74, R83). -/
def AccessDenied (s : State) (size : Nat) (a : Word) : Prop := a.toNat % size ≠ 0 ∨ s.mayAccess a = false

theorem checkAligned_of_misaligned (h : a.toNat % size ≠ 0) : checkAligned a size e = .error (.exc e) := if_neg h

theorem checkPrivilege_of_closed (h : s.mayAccess a = false) : checkPrivilege s a e = .error (.exc e) := by
  refine if_pos ?_
  simpa [State.mayAccess] using h

/-- An access of a byte is aligned everywhere. -/
theorem AccessDenied.closed (h : AccessDenied s 1 a) : s.mayAccess a = false :=
  h.resolve_left (fun hne => hne (Nat.mod_one _))

/-- An access goes on after a check that passes, and stops as a check that fails does. -/
theorem access_bind_of_ok {β : Type} {r : Access α} {f : α → Access β} {v : α} (h : r = .ok v) : r >>= f = f v := by
  rw [h]; rfl

theorem access_bind_of_error {β : Type} {r : Access α} {f : α → Access β} {x : Stop} (h : r = .error x) :
    r >>= f = .error x := by rw [h]; rfl

/-- Denied, an access stops at its checks. -/
theorem checks_of_denied {r : Access α} (h : AccessDenied s size a) :
    (do checkAligned a size e; checkPrivilege s a e; r) = .error (.exc e) := by
  by_cases ha : a.toNat % size = 0
  · refine (access_bind_of_ok (v := ()) (checkAligned_ok.2 ha)).trans ?_
    exact access_bind_of_error (checkPrivilege_of_closed (h.resolve_left (not_not_intro ha)))
  · exact access_bind_of_error (checkAligned_of_misaligned ha)

theorem readByte_of_denied (h : AccessDenied s 1 a) : readByte s a = .error (.exc .dataAddressErrorRead) :=
  access_bind_of_error (checkPrivilege_of_closed h.closed)

theorem readHalf_of_denied (h : AccessDenied s 2 a) : readHalf s a = .error (.exc .dataAddressErrorRead) :=
  checks_of_denied h

theorem readLong_of_denied (h : AccessDenied s 4 a) : readLong s a = .error (.exc .dataAddressErrorRead) :=
  checks_of_denied h

theorem readByteForUpdate_of_denied (h : AccessDenied s 1 a) :
    readByteForUpdate s a = .error (.exc .dataAddressErrorRead) :=
  access_bind_of_error (checkPrivilege_of_closed h.closed)

theorem writeByte_of_denied {v : Byte} (h : AccessDenied s 1 a) :
    writeByte s a v = .error (.exc .dataAddressErrorWrite) :=
  access_bind_of_error (checkPrivilege_of_closed h.closed)

theorem writeHalf_of_denied {v : Half} (h : AccessDenied s 2 a) :
    writeHalf s a v = .error (.exc .dataAddressErrorWrite) :=
  checks_of_denied h

theorem writeLong_of_denied {v : Word} (h : AccessDenied s 4 a) :
    writeLong s a v = .error (.exc .dataAddressErrorWrite) :=
  checks_of_denied h

/-! ## Instructions whose first access is denied -/

/-- An instruction whose first access raises an exception raises it from the state it started in (60_exceptions.md
R465). -/
theorem complete_bind_of_exc {r : Access α} {f : α → Access State} (h : r = .error (.exc e)) :
    complete s (r >>= f) = raise e s := by rw [h]; rfl

theorem complete_map_of_exc {r : Access α} {f : α → State} (h : r = .error (.exc e)) :
    complete s (r.map f) = raise e s := by rw [h]; rfl

theorem loadByte_of_denied {k : Byte → State} (h : AccessDenied s 1 a) :
    loadByte s a k = raise .dataAddressErrorRead s := complete_map_of_exc (readByte_of_denied h)

theorem loadHalf_of_denied {k : Half → State} (h : AccessDenied s 2 a) :
    loadHalf s a k = raise .dataAddressErrorRead s := complete_map_of_exc (readHalf_of_denied h)

theorem loadLong_of_denied {k : Word → State} (h : AccessDenied s 4 a) :
    loadLong s a k = raise .dataAddressErrorRead s := complete_map_of_exc (readLong_of_denied h)

theorem storeByte_of_denied {v : Byte} {k : State → State} (h : AccessDenied s 1 a) :
    storeByte s a v k = raise .dataAddressErrorWrite s := complete_map_of_exc (writeByte_of_denied h)

theorem storeHalf_of_denied {v : Half} {k : State → State} (h : AccessDenied s 2 a) :
    storeHalf s a v k = raise .dataAddressErrorWrite s := complete_map_of_exc (writeHalf_of_denied h)

theorem storeLong_of_denied {v : Word} {k : State → State} (h : AccessDenied s 4 a) :
    storeLong s a v k = raise .dataAddressErrorWrite s := complete_map_of_exc (writeLong_of_denied h)

theorem updateByte_of_denied {f : Byte → Byte} {g : Byte → State → State} (h : AccessDenied s 1 a) :
    updateByte s a f g = raise .dataAddressErrorRead s := complete_bind_of_exc (readByteForUpdate_of_denied h)

/-- The displacement of a byte is not scaled (44_data_transfer.md R323, R329). -/
theorem gbrDisp_one (s : State) (d : BitVec 8) : s.gbrDisp 1 d = s.gbr + d.setWidth 32 := by
  simp [State.gbrDisp, zext]

theorem regDisp_one (s : State) (n : Reg) (d : BitVec 4) : s.regDisp n 1 d = s.r n + d.setWidth 32 := by
  simp [State.regDisp, zext]

/-! ## What the mode and the slot let execute (30_encoding.md R123, R124) -/

variable {i : Instr}

theorem mayExecute.md (h : mayExecute i s) (hi : needsPrivilege i = true) : s.md = true := by
  obtain ⟨hmode, -⟩ := h
  simp only [modeAllows, hi, Bool.not_true, Bool.false_or, Bool.and_eq_true] at hmode
  obtain ⟨⟨hmd, -⟩, -⟩ := hmode
  exact hmd

theorem mayExecute.dsp (h : mayExecute i s) (hi : needsDsp i = true) : s.dsp = true := by
  obtain ⟨hmode, -⟩ := h
  simp only [modeAllows, hi, Bool.not_true, Bool.false_or, Bool.and_eq_true] at hmode
  obtain ⟨⟨-, hdsp⟩, -⟩ := hmode
  exact hdsp

theorem mayExecute.mdOrDsp (h : mayExecute i s) (hi : isSrForm i = true) : (s.md || s.dsp) = true := by
  obtain ⟨hmode, -⟩ := h
  simp only [modeAllows, hi, Bool.not_true, Bool.false_or, Bool.and_eq_true] at hmode
  obtain ⟨-, hsr⟩ := hmode
  exact hsr

theorem mayExecute.pending (h : mayExecute i s) (hi : slotIllegalAlways i = true) : s.pending = none := by
  obtain ⟨-, hslot⟩ := h
  exact hslot.resolve_right (fun hn => absurd (hi.symm.trans hn) nofun)

/-- An instruction that may execute and whose first access is denied raises the exception of that access from the
unchanged state. -/
theorem exec_of_firstAccess_denied (hfirst : firstAccess i s = some (e, size, a)) (hmay : mayExecute i s)
    (h : AccessDenied s size a) : exec i s = raise e s := by
  cases i with
  | movBLoad | movBLoadInc | movBLoadIdx => cases hfirst; exact loadByte_of_denied h
  | movBLoadGbr => cases hfirst; exact loadByte_of_denied (by rwa [gbrDisp_one])
  | movBLoadDisp => cases hfirst; exact loadByte_of_denied (by rwa [regDisp_one])
  | movBStore | movBStoreDec | movBStoreIdx => cases hfirst; exact storeByte_of_denied h
  | movBStoreGbr => cases hfirst; exact storeByte_of_denied (by rwa [gbrDisp_one])
  | movBStoreDisp => cases hfirst; exact storeByte_of_denied (by rwa [regDisp_one])
  | movWLoad | movWLoadInc | movWLoadIdx | movWLoadGbr | movWLoadDisp => cases hfirst; exact loadHalf_of_denied h
  | movWStore | movWStoreDec | movWStoreIdx | movWStoreGbr | movWStoreDisp =>
    cases hfirst; exact storeHalf_of_denied h
  | movLLoad | movLLoadInc | movLLoadIdx | movLLoadGbr | movLLoadDisp | movliL =>
    cases hfirst; exact loadLong_of_denied h
  | movLStore | movLStoreDec | movLStoreIdx | movLStoreGbr | movLStoreDisp | movcaL =>
    cases hfirst; exact storeLong_of_denied h
  | movcoL =>
    cases hl : s.ldst with
    | false => simp [firstAccess, hl] at hfirst
    | true =>
      simp only [firstAccess, hl, if_true] at hfirst
      cases hfirst
      exact (if_pos hl).trans (storeLong_of_denied h)
  | movWLoadPc =>
    cases hfirst; exact (whenNotInSlot_of_none (hmay.pending rfl)).trans (loadHalf_of_denied h)
  | movLLoadPc =>
    cases hfirst; exact (whenNotInSlot_of_none (hmay.pending rfl)).trans (loadLong_of_denied h)
  | andB | orB | xorB | tasB => cases hfirst; exact updateByte_of_denied h
  | tstB => cases hfirst; exact complete_map_of_exc (readByteForUpdate_of_denied h)
  | macW => cases hfirst; exact complete_bind_of_exc (readHalf_of_denied h)
  | macL => cases hfirst; exact complete_bind_of_exc (readLong_of_denied h)
  | ldcLGbr | ldsLMach | ldsLMacl | ldsLPr => cases hfirst; exact loadLong_of_denied h
  | stcLGbr | stsLMach | stsLMacl | stsLPr => cases hfirst; exact storeLong_of_denied h
  | ldcLVbr | ldcLSgr | ldcLSsr | ldcLSpc | ldcLDbr | ldcLBank =>
    cases hfirst; exact (whenPrivileged_of_md (hmay.md rfl)).trans (loadLong_of_denied h)
  | stcLVbr | stcLSgr | stcLSsr | stcLSpc | stcLDbr | stcLBank =>
    cases hfirst; exact (whenPrivileged_of_md (hmay.md rfl)).trans (storeLong_of_denied h)
  | ldcLMod | ldcLRe | ldcLRs | ldsLDsr | ldsLA0 | ldsLX0 | ldsLX1 | ldsLY0 | ldsLY1 =>
    cases hfirst; exact (whenDsp_of_dsp (hmay.dsp rfl)).trans (loadLong_of_denied h)
  | stcLMod | stcLRe | stcLRs | stsLDsr | stsLA0 | stsLX0 | stsLX1 | stsLY0 | stsLY1 =>
    cases hfirst; exact (whenDsp_of_dsp (hmay.dsp rfl)).trans (storeLong_of_denied h)
  | ldcLSr =>
    cases hfirst
    exact (whenNotInSlot_of_none (hmay.pending rfl)).trans ((whenPrivilegedOrDsp_of_mode (hmay.mdOrDsp rfl)).trans
      (complete_bind_of_exc (readLong_of_denied h)))
  | stcLSr =>
    cases hfirst; exact (whenPrivilegedOrDsp_of_mode (hmay.mdOrDsp rfl)).trans (storeLong_of_denied h)
  | _ => cases hfirst

/-- MAC.W whose first operand can be loaded raises the exception of its second, read through another register
(40_arithmetic.md R166). -/
theorem execMacW_of_second_denied {m n : Reg} {v : Half} (hne : m ≠ n) (hl : Loads s (s.r n) (halfBytes s v))
    (h : (s.r m).toNat % 2 ≠ 0) : execMacW m n s = raise .dataAddressErrorRead s := by
  have hm : (s.bump n 2).r m = s.r m := State.setR_r_ne s _ hne
  have hsecond : readHalf (s.bump n 2) ((s.bump n 2).r m) = .error (.exc .dataAddressErrorRead) :=
    readHalf_of_denied (Or.inl (by rwa [hm]))
  simp only [execMacW, readHalf_ok.2 (Or.inl hl), bind, Except.bind, hostTaken_of_loads hl (State.bump_params ..),
    hsecond, complete_exc]

/-- MAC.L likewise (R165). -/
theorem execMacL_of_second_denied {m n : Reg} {v : Word} (hne : m ≠ n) (hl : Loads s (s.r n) (longBytes s v))
    (h : (s.r m).toNat % 4 ≠ 0) : execMacL m n s = raise .dataAddressErrorRead s := by
  have hm : (s.bump n 4).r m = s.r m := State.setR_r_ne s _ hne
  have hsecond : readLong (s.bump n 4) ((s.bump n 4).r m) = .error (.exc .dataAddressErrorRead) :=
    readLong_of_denied (Or.inl (by rwa [hm]))
  simp only [execMacL, readLong_of_loads hl, bind, Except.bind, hostTaken_of_loads hl (State.bump_params ..),
    hsecond, complete_exc]

end

/-- Settles O49: a misaligned access is denied, and an instruction whose access is denied raises its exception. -/
theorem misalignedAccess : Obligations.MisalignedAccess := by
  refine fun s => ⟨fun a _ _ => ⟨fun ha => ?half, fun ha => ?long⟩, fun i e size a hfirst hmay ha => ?first,
    fun m n hne => ⟨fun v hl hm => ?macW, fun v hl hm => ?macL⟩⟩
  case half => exact ⟨readHalf_of_denied (Or.inl ha), writeHalf_of_denied (Or.inl ha)⟩
  case long => exact ⟨readLong_of_denied (Or.inl ha), writeLong_of_denied (Or.inl ha)⟩
  case first => exact exec_of_firstAccess_denied hfirst hmay (Or.inl ha)
  case macW => exact execMacW_of_second_denied hne hl hm
  case macL => exact execMacL_of_second_denied hne hl hm

/-! ## The privileged area -/

section

variable {s : State} {a : Word} {n : Reg}

/-- User mode may not access the privileged area (20_memory.md R83). -/
theorem mayAccess_user (hm : s.md = false) (ha : a.msb = true) : s.mayAccess a = false := by
  simp [State.mayAccess, hm, ha]

/-- What follows a check of the mode and stops on the exception of that check stops on it all the same. -/
theorem checkPrivilege_bind_of_exc {α : Type} {e : Exc} {r : Access α} (h : r = .error (.exc e)) :
    (do checkPrivilege s a e; r) = .error (.exc e) := by
  cases hc : s.mayAccess a
  · exact access_bind_of_error (checkPrivilege_of_closed hc)
  · exact (access_bind_of_ok (v := ()) (checkPrivilege_ok.2 hc)).trans h

/-- An aligned longword lies on one side of the area's lower end. -/
theorem msb_add_of_aligned {k : Nat} (ha : a.toNat % 4 = 0) (hk : k < 4) : (a + BitVec.ofNat 32 k).msb = a.msb := by
  have hlt := a.isLt
  rw [BitVec.msb_eq_decide, BitVec.msb_eq_decide, BitVec.toNat_add, BitVec.toNat_ofNat]
  congr 1
  apply propext
  omega

/-- `MemReadUnaligned` of four bytes of which one lies in the area, from user mode (R76, 45_cache_sync.md R355). -/
theorem readUnaligned_user (hm : s.md = false) {k : Nat} (hk : k < 4) (ha : (a + BitVec.ofNat 32 k).msb = true) :
    readUnaligned s a = .error (.exc .dataAddressErrorRead) := by
  unfold readUnaligned
  split
  · rename_i h4
    rw [msb_add_of_aligned h4 hk] at ha
    exact readLong_of_denied (Or.inr (mayAccess_user hm ha))
  · have closed := checkPrivilege_of_closed (e := .dataAddressErrorRead) (mayAccess_user hm ha)
    obtain rfl | rfl | rfl | rfl : k = 0 ∨ k = 1 ∨ k = 2 ∨ k = 3 := by omega
    · rw [BitVec.add_zero] at closed
      exact access_bind_of_error closed
    · exact checkPrivilege_bind_of_exc (access_bind_of_error closed)
    · exact checkPrivilege_bind_of_exc (checkPrivilege_bind_of_exc (access_bind_of_error closed))
    · exact checkPrivilege_bind_of_exc (checkPrivilege_bind_of_exc (checkPrivilege_bind_of_exc
        (access_bind_of_error closed)))

/-- A fetch that the mode does not allow (R73, 60_exceptions.md R457). -/
theorem fetch_of_closed (heven : s.pc.toNat % 2 = 0) (hrte : s.inRteSlot = false) (h : s.mayAccess s.pc = false) :
    fetch s = .error (.exc .instructionAddressError) := by
  have hmode : checkFetchMode s = .error (.exc .instructionAddressError) := by
    rw [checkFetchMode, hrte]
    exact checkPrivilege_of_closed h
  rw [fetch_eq]
  exact (access_bind_of_ok (v := ()) (checkAligned_ok.2 heven)).trans (access_bind_of_error hmode)

theorem checkBlock_of_closed {store : Bool} {e : Exc} (h : s.mayAccess a = false) :
    checkBlock s a store e = .error (.exc e) := access_bind_of_error (checkPrivilege_of_closed h)

end

/-- Settles O50: an access of user mode to the area is denied, and an instruction whose access is denied raises its
exception. -/
theorem privilegedAreaClosed : Obligations.PrivilegedAreaClosed := by
  intro s a n b h v hm
  have closed {x : Word} (hx : x.msb = true) : s.mayAccess x = false := mayAccess_user hm hx
  refine ⟨fun ha => ?access, fun k hk ha => readUnaligned_user hm hk ha, fun k hk ha => ?movua,
    fun i e size x hfirst hmay hx => exec_of_firstAccess_denied hfirst hmay (Or.inr (closed hx)),
    fun hpc heven hrte => fetch_of_closed heven hrte (closed hpc), fun ha hp => ?icbi, fun ha => ?block⟩
  case access =>
    have denied (size : Nat) : AccessDenied s size a := Or.inr (closed ha)
    exact ⟨readByte_of_denied (denied 1), readHalf_of_denied (denied 2), readLong_of_denied (denied 4),
      readByteForUpdate_of_denied (denied 1), writeByte_of_denied (denied 1), writeHalf_of_denied (denied 2),
      writeLong_of_denied (denied 4)⟩
  case movua =>
    have hread := readUnaligned_user hm hk ha
    exact ⟨complete_map_of_exc hread, complete_map_of_exc hread⟩
  case icbi =>
    exact (whenNotInSlot_of_none hp).trans (complete_bind_of_exc (checkBlock_of_closed (closed ha)))
  case block =>
    have hblock {store : Bool} {e : Exc} := checkBlock_of_closed (store := store) (e := e) (closed ha)
    exact ⟨complete_bind_of_exc hblock, complete_bind_of_exc hblock, complete_bind_of_exc hblock,
      completes_of_done rfl (Leaves.advance ⟨fun _ => rfl, fun _ => rfl⟩ rfl (SameRest.refl s) rfl rfl rfl rfl)⟩

/-! ## The registers mapped in the address space -/

section

variable {s u : State} {a v : Word} {c : ControlReg} {m n : Reg}

/-- A register is mapped at an aligned longword of its own (20_memory.md R84; log 19). -/
theorem controlReg_some (h : controlReg a = some c) : a.toNat % 4 = 0 ∧ isControl a = true := by
  unfold controlReg at h
  split_ifs at h
  all_goals subst a; decide

/-- No host answers where a register is mapped. -/
theorem isDevice_of_controlReg (h : controlReg a = some c) : s.isDevice a = false := by
  obtain ⟨-, hc⟩ := controlReg_some h
  simp [State.isDevice, hc]

/-- A longword read where a register is mapped reads the register (R84). -/
theorem readLong_of_controlReg (hm : s.mayAccess a = true) (h : controlReg a = some c) :
    readLong s a = .ok (s.controlRead c) := by
  simp only [readLong, access_bind_ok, checkAligned_ok, checkPrivilege_ok, h]
  exact ⟨(), (controlReg_some h).1, (), hm, rfl⟩

/-- A longword store there is the register's to take or to stop (R84, R85). -/
theorem writeLong_of_controlReg (hm : s.mayAccess a = true) (h : controlReg a = some c) :
    writeLong s a v = (s.controlWrite a v c).map (·.markDirty a) := by
  refine (access_bind_of_ok (v := ()) (checkAligned_ok.2 (controlReg_some h).1)).trans
    ((access_bind_of_ok (v := ()) (checkPrivilege_ok.2 hm)).trans ?_)
  rw [h]
  show (s.controlWrite a v c >>= fun t => pure (t.markDirty a)) = _
  cases s.controlWrite a v c <;> rfl

theorem mayAccess_privileged (hm : s.md = true) : s.mayAccess a = true := by simp [State.mayAccess, hm]

/-- MOV.L from a mapped register. -/
theorem completes_movLLoad_control (hm : s.md = true) (h : controlReg (s.r m) = some c) :
    Completes (.movLLoad m n) s (Leaves s (withReg s.r n (s.controlRead c)) s.sr s) := by
  have hrun : exec (.movLLoad m n) s = done (s.setR n (s.controlRead c)) := by
    have hd : (s.setR n (s.controlRead c)).isDevice (s.r m) = false := isDevice_of_controlReg h
    show complete s ((readLong s (s.r m)).map _) = _
    rw [readLong_of_controlReg (mayAccess_privileged hm) h, Except.map, hostTaken_of_not_device hd]
    rfl
  exact completes_of_done hrun (Leaves.setR s n _)

/-- MOV.L to a mapped register ends as the register takes the store. -/
theorem exec_movLStore_control (hm : s.md = true) (h : controlReg (s.r n) = some c) : exec (.movLStore m n) s =
    complete s ((s.controlWrite (s.r n) (s.r m) c).map (·.markDirty (s.r n))) := by
  show complete s ((writeLong s (s.r n) (s.r m)).map id) = _
  rw [writeLong_of_controlReg (mayAccess_privileged hm) h]
  cases s.controlWrite (s.r n) (s.r m) c <;> rfl

/-- One that is taken changes the register and makes its block dirty, and that is all: `u` is `s` but for special
registers. -/
theorem completes_movLStore_control (hm : s.md = true) (h : controlReg (s.r n) = some c)
    (hw : s.controlWrite (s.r n) (s.r m) c = .ok u) (hbanks : SameBanks s u) (hsr : u.sr = s.sr) (hmem : u.mem = s.mem)
    (hdirty : u.dirtyCode = s.dirtyCode) (hpc : u.pc = s.pc) (hp : u.pending = s.pending) :
    Completes (.movLStore m n) s (fun t => Registers s s.r t ∧ t.sr = s.sr ∧ SameRest u t ∧ SameMemory s t ∧
      DirtiedAt s t (s.r n) ∧ Advanced s t) := by
  have hrun : exec (.movLStore m n) s = done (u.markDirty (s.r n)) := by
    rw [exec_movLStore_control hm h, hw]; rfl
  refine completes_of_done hrun ⟨?_, ?_, ?_, ?_, fun b => ?_, ?_⟩
  · exact (Registers.of_banks (u := u.markDirty (s.r n)) hbanks (bankSel_congr hsr)).advance
  · rw [State.advance_sr]; exact hsr
  · exact SameRest.advance (by constructor <;> rfl)
  · exact SameMemory.of_mem (by rw [State.advance_mem]; exact hmem)
  · rw [State.advance_dirtyCode, ← hdirty]; exact mem_setInsert u.dirtyCode _ b
  · exact Advanced.advance hpc hp

end

/-- Settles O51: each of the six addresses maps its register, and a store is what that register makes of it. -/
theorem controlRegistersMapped : Obligations.ControlRegistersMapped := by
  intro s m n hm
  have load {c : ControlReg} (h : controlReg (s.r m) = some c) := completes_movLLoad_control (n := n) hm h
  have store {u : State} {c : ControlReg} (h : controlReg (s.r n) = some c) := completes_movLStore_control (m := m)
    (u := u) hm h
  refine ⟨fun h => load (c := .pteh) (h ▸ rfl), fun h => load (c := .ptel) (h ▸ rfl),
    fun h => load (c := .mmucr) (h ▸ rfl), fun h => load (c := .tra) (h ▸ rfl), fun h => load (c := .expevt) (h ▸ rfl),
    fun h => load (c := .intevt) (h ▸ rfl), fun h => ?pteh, fun h => ?ptel, fun h hv => ?mmucr, fun h hv => ?mmuOn,
    fun h => ?readOnly⟩
  case pteh => exact store (c := .pteh) (h ▸ rfl) rfl ⟨rfl, rfl, rfl⟩ rfl rfl rfl rfl rfl
  case ptel => exact store (c := .ptel) (h ▸ rfl) rfl ⟨rfl, rfl, rfl⟩ rfl rfl rfl rfl rfl
  case mmucr =>
    have hw : s.controlWrite (s.r n) (s.r m) .mmucr = .ok { s with mmucr := s.r m } :=
      if_neg (by rw [hv]; nofun)
    exact store (c := .mmucr) (h ▸ rfl) hw ⟨rfl, rfl, rfl⟩ rfl rfl rfl rfl rfl
  case mmuOn =>
    rw [exec_movLStore_control (c := .mmucr) hm (h ▸ rfl), State.controlWrite, if_pos hv]; rfl
  case readOnly =>
    rcases h with h | h | h
    · exact exec_movLStore_control (c := .tra) hm (h ▸ rfl)
    · exact exec_movLStore_control (c := .expevt) hm (h ▸ rfl)
    · exact exec_movLStore_control (c := .intevt) hm (h ▸ rfl)

end Sys2Proof.Machine

/-! PROOF. The encoding: an instruction's word decodes to it (`decodeRow_encode`), a row fixes every field of the words it
matches (`encode_of_decodeRow`), and what the decoder answers where no row matches. -/

namespace Sys2Proof

section

variable {w : Half} {i : Instr}

/-! ## A word is made of its fields (30_encoding.md R111) -/

theorem nib3_append_nib2 (w : Half) : nib3 w ++ nib2 w = w.extractLsb' 8 8 :=
  BitVec.extractLsb'_append_extractLsb'_eq_extractLsb' rfl

theorem word4_fields (w : Half) : word4 (nib3 w) (nib2 w) (nib1 w) (nib0 w) = w := by
  have high : w.extractLsb' 8 8 ++ nib1 w = w.extractLsb' 4 12 :=
    BitVec.extractLsb'_append_extractLsb'_eq_extractLsb' rfl
  have whole : w.extractLsb' 4 12 ++ nib0 w = w.extractLsb' 0 16 :=
    BitVec.extractLsb'_append_extractLsb'_eq_extractLsb' rfl
  rw [word4, nib3_append_nib2, high, whole, BitVec.extractLsb'_eq_self]

theorem word448_fields (w : Half) : word448 (nib3 w) (nib2 w) (low8 w) = w := by
  have whole : w.extractLsb' 8 8 ++ low8 w = w.extractLsb' 0 16 :=
    BitVec.extractLsb'_append_extractLsb'_eq_extractLsb' rfl
  rw [word448, nib3_append_nib2, whole, BitVec.extractLsb'_eq_self]

theorem word412_fields (w : Half) : word412 (nib3 w) (low12 w) = w := by
  have whole : nib3 w ++ low12 w = w.extractLsb' 0 16 :=
    BitVec.extractLsb'_append_extractLsb'_eq_extractLsb' rfl
  rw [word412, whole, BitVec.extractLsb'_eq_self]

/-- A word is recognised by its four nibbles, as the decoder matches them. -/
theorem word4_eq {a b c d : BitVec 4} (h3 : (nib3 w).toNat = a.toNat) (h2 : (nib2 w).toNat = b.toNat)
    (h1 : (nib1 w).toNat = c.toNat) (h0 : (nib0 w).toNat = d.toNat) : word4 a b c d = w := by
  rw [← BitVec.eq_of_toNat_eq h3, ← BitVec.eq_of_toNat_eq h2, ← BitVec.eq_of_toNat_eq h1, ← BitVec.eq_of_toNat_eq h0,
    word4_fields]

theorem word448_eq {a b : BitVec 4} (h3 : (nib3 w).toNat = a.toNat) (h2 : (nib2 w).toNat = b.toNat) :
    word448 a b (low8 w) = w := by
  rw [← BitVec.eq_of_toNat_eq h3, ← BitVec.eq_of_toNat_eq h2, word448_fields]

theorem word412_eq {a : BitVec 4} (h3 : (nib3 w).toNat = a.toNat) : word412 a (low12 w) = w := by
  rw [← BitVec.eq_of_toNat_eq h3, word412_fields]

/-- A bank register's nibble has its top bit set (R118). -/
theorem bankPart_eq (h : (nib1 w).msb = true) : (1#1 ++ bankField w : BitVec 4) = nib1 w := by
  have all : ∀ b : BitVec 4, b.msb = true → (1#1 ++ b.extractLsb' 0 3 : BitVec 4) = b := by decide
  exact all _ h

/-! ## The row of an encoded instruction (R120) -/

theorem decodeRow_encode (i : Instr) : decodeRow (encode i) = some i := by
  cases i with
  | stcSr | stcGbr | stcVbr | stcSsr | stcSpc | stcMod | stcRs | stcRe =>
    simp [encode, decodeRow, decode0, decode0x2, BitVec.msb_eq_decide]
  | bsrf | braf | movliL | movcoL | pref | ocbi | ocbp | ocbwb | movcaL | prefi | icbi =>
    simp [encode, decodeRow, decode0, decode0x3]
  | clrt | sett | clrmac | ldtlb | clrs | sets | clrdmxy | setdmx | setdmy =>
    simp [encode, decodeRow, decode0, decode0x8]
  | nop | div0u | movt =>
    simp [encode, decodeRow, decode0, decode0x9]
  | stsMach | stsMacl | stsPr | stcSgr | stsDsr | stsA0 | stsX0 | stsX1 | stsY0 | stsY1 | stcDbr =>
    simp [encode, decodeRow, decode0, decode0xA]
  | rts | sleep | rte | synco =>
    simp [encode, decodeRow, decode0, decode0xB]
  | movBStoreIdx | movWStoreIdx | movLStoreIdx | mulL | movBLoadIdx | movWLoadIdx | movLLoadIdx | macL =>
    simp [encode, decodeRow, decode0]
  | movBStore | movWStore | movLStore | movBStoreDec | movWStoreDec | movLStoreDec | div0s | tstReg | andReg
    | xorReg | orReg | cmpStr | xtrct | muluW | mulsW =>
    simp [encode, decodeRow, decode2]
  | cmpEq | cmpHs | cmpGe | div1 | dmuluL | cmpHi | cmpGt | sub | subc | subv | add | dmulsL | addc | addv =>
    simp [encode, decodeRow, decode3]
  | shll | dt | shal =>
    simp [encode, decodeRow, decode4, decode4x0]
  | shlr | cmpPz | shar =>
    simp [encode, decodeRow, decode4, decode4x1]
  | stsLMach | stsLMacl | stsLPr | stcLSgr | stsLDsr | stsLA0 | stsLX0 | stsLX1 | stsLY0 | stsLY1 | stcLDbr =>
    simp [encode, decodeRow, decode4, decode4x2]
  | stcLSr | stcLGbr | stcLVbr | stcLSsr | stcLSpc | stcLMod | stcLRs | stcLRe =>
    simp [encode, decodeRow, decode4, decode4x3, BitVec.msb_eq_decide]
  | rotl | setrc | rotcl | ldrc =>
    simp [encode, decodeRow, decode4, decode4x4]
  | rotr | cmpPl | rotcr =>
    simp [encode, decodeRow, decode4, decode4x5]
  | ldsLMach | ldsLMacl | ldsLPr | ldcLSgr | ldsLDsr | ldsLA0 | ldsLX0 | ldsLX1 | ldsLY0 | ldsLY1 | ldcLDbr =>
    simp [encode, decodeRow, decode4, decode4x6]
  | ldcLSr | ldcLGbr | ldcLVbr | ldcLSsr | ldcLSpc | ldcLMod | ldcLRs | ldcLRe =>
    simp [encode, decodeRow, decode4, decode4x7, BitVec.msb_eq_decide]
  | shll2 | shll8 | shll16 =>
    simp [encode, decodeRow, decode4, decode4x8]
  | shlr2 | shlr8 | shlr16 | movuaL | movuaLInc =>
    simp [encode, decodeRow, decode4, decode4x9]
  | ldsMach | ldsMacl | ldsPr | ldcSgr | ldsDsr | ldsA0 | ldsX0 | ldsX1 | ldsY0 | ldsY1 | ldcDbr =>
    simp [encode, decodeRow, decode4, decode4xA]
  | jsr | tasB | jmp =>
    simp [encode, decodeRow, decode4, decode4xB]
  | ldcSr | ldcGbr | ldcVbr | ldcSsr | ldcSpc | ldcMod | ldcRs | ldcRe =>
    simp [encode, decodeRow, decode4, decode4xE, BitVec.msb_eq_decide]
  | shad | shld | macW =>
    simp [encode, decodeRow, decode4]
  | movBLoad | movWLoad | movLLoad | mov | movBLoadInc | movWLoadInc | movLLoadInc | notReg | swapB | swapW | negc
    | neg | extuB | extuW | extsB | extsW =>
    simp [encode, decodeRow, decode6]
  | movBStoreDisp | movWStoreDisp | setrcImm | movBLoadDisp | movWLoadDisp | cmpEqImm | bt | ldrcImm | bf | ldrs
    | btS | ldre | bfS =>
    simp [encode, decodeRow, decode8]
  | movBStoreGbr | movWStoreGbr | movLStoreGbr | trapa | movBLoadGbr | movWLoadGbr | movLLoadGbr | mova | tstImm
    | andImm | xorImm | orImm | tstB | andB | xorB | orB =>
    simp [encode, decodeRow, decodeC]
  | movLStoreDisp | movLLoadDisp | addImm | movWLoadPc | bra | bsr | movLLoadPc | movImm =>
    simp [encode, decodeRow]
  | stcBank | stcLBank | ldcLBank | ldcBank =>
    simp [encode, decodeRow, decode0, decode0x2, decode4, decode4x3, decode4x7, decode4xE]

/-! ## The word of a decoded row (R120)

Each lemma follows the decoder's own match: a branch says which nibbles the word has, and these with the operands the row
reads are the word that the encoder writes. -/

/-- A row without an operand matches only where the bits that others use for one are 0. -/
theorem encode_of_no_operand {j : Instr} (h : (if nib2 w = 0x0 then some j else none) = some i)
    (hj : nib2 w = 0x0 → encode j = w) : encode i = w := by
  obtain ⟨h2, ⟨⟩⟩ := Option.ite_none_right_eq_some.1 h
  exact hj h2

theorem encode_of_decode0 (h3 : (nib3 w).toNat = 0x0) (h : decode0 w = some i) : encode i = w := by
  unfold decode0 at h
  split at h
  case h_1 h0 =>
    unfold decode0x2 at h
    split at h
    next hb => cases h; exact word4_eq h3 rfl (congrArg BitVec.toNat (bankPart_eq hb).symm) h0
    next => split at h <;> cases h <;> exact word4_eq h3 rfl ‹_› h0
  case h_2 h0 | h_9 h0 =>
    dsimp only [decode0x3, decode0xA] at h
    split at h <;> cases h <;> exact word4_eq h3 rfl ‹_› h0
  case h_7 h0 =>
    unfold decode0x8 at h
    split at h
    case h_10 => cases h
    all_goals exact encode_of_no_operand h fun h2 => word4_eq h3 (congrArg BitVec.toNat h2) ‹_› h0
  case h_8 h0 =>
    unfold decode0x9 at h
    split at h
    case h_3 h1 => cases h; exact word4_eq h3 rfl h1 h0
    case h_4 => cases h
    all_goals exact encode_of_no_operand h fun h2 => word4_eq h3 (congrArg BitVec.toNat h2) ‹_› h0
  case h_10 h0 =>
    unfold decode0xB at h
    split at h
    case h_5 => cases h
    all_goals exact encode_of_no_operand h fun h2 => word4_eq h3 (congrArg BitVec.toNat h2) ‹_› h0
  all_goals cases h
  all_goals exact word4_eq h3 rfl rfl ‹_›

theorem encode_of_decode2 (h3 : (nib3 w).toNat = 0x2) (h : decode2 w = some i) : encode i = w := by
  unfold decode2 at h
  split at h <;> cases h <;> exact word4_eq h3 rfl rfl ‹_›

theorem encode_of_decode3 (h3 : (nib3 w).toNat = 0x3) (h : decode3 w = some i) : encode i = w := by
  unfold decode3 at h
  split at h <;> cases h <;> exact word4_eq h3 rfl rfl ‹_›

theorem encode_of_decode4 (h3 : (nib3 w).toNat = 0x4) (h : decode4 w = some i) : encode i = w := by
  unfold decode4 at h
  split at h
  case h_4 h0 | h_8 h0 | h_15 h0 =>
    dsimp only [decode4x3, decode4x7, decode4xE] at h
    split at h
    next hb => cases h; exact word4_eq h3 rfl (congrArg BitVec.toNat (bankPart_eq hb).symm) h0
    next => split at h <;> cases h <;> exact word4_eq h3 rfl ‹_› h0
  case h_13 | h_14 | h_16 => cases h; exact word4_eq h3 rfl rfl ‹_›
  case h_17 => cases h
  all_goals
    rename_i h0
    dsimp only [decode4x0, decode4x1, decode4x2, decode4x4, decode4x5, decode4x6, decode4x8, decode4x9, decode4xA,
      decode4xB] at h
    split at h <;> cases h <;> exact word4_eq h3 rfl ‹_› h0

theorem encode_of_decode6 (h3 : (nib3 w).toNat = 0x6) (h : decode6 w = some i) : encode i = w := by
  unfold decode6 at h
  split at h <;> cases h <;> exact word4_eq h3 rfl rfl ‹_›

theorem encode_of_decode8 (h3 : (nib3 w).toNat = 0x8) (h : decode8 w = some i) : encode i = w := by
  unfold decode8 at h
  split at h
  case h_1 h2 | h_2 h2 | h_4 h2 | h_5 h2 => cases h; exact word4_eq h3 h2 rfl rfl
  all_goals cases h
  all_goals exact word448_eq h3 ‹_›

theorem encode_of_decodeC (h3 : (nib3 w).toNat = 0xC) (h : decodeC w = some i) : encode i = w := by
  unfold decodeC at h
  split at h <;> cases h <;> exact word448_eq h3 ‹_›

theorem encode_of_decodeRow (h : decodeRow w = some i) : encode i = w := by
  unfold decodeRow at h
  split at h
  case h_1 h3 => exact encode_of_decode0 h3 h
  case h_3 h3 => exact encode_of_decode2 h3 h
  case h_4 h3 => exact encode_of_decode3 h3 h
  case h_5 h3 => exact encode_of_decode4 h3 h
  case h_7 h3 => exact encode_of_decode6 h3 h
  case h_9 h3 => exact encode_of_decode8 h3 h
  case h_13 h3 => exact encode_of_decodeC h3 h
  case h_2 h3 | h_6 h3 => cases h; exact word4_eq h3 rfl rfl rfl
  case h_8 h3 | h_10 h3 | h_14 h3 | h_15 h3 => cases h; exact word448_eq h3 rfl
  case h_11 h3 | h_12 h3 => cases h; exact word412_eq h3
  case h_16 => cases h

/-! ## Decoding and encoding -/

theorem decode_eq_ok_iff_row : decode w = .ok i ↔ decodeRow w = some i := by
  unfold decode
  split
  next j hrow => simp [hrow]
  next hrow => split <;> simp [hrow]

/-- The decoder reads an instruction from exactly one word, the one the encoder writes for it. -/
theorem decode_eq_ok_iff : decode w = .ok i ↔ encode i = w :=
  decode_eq_ok_iff_row.trans ⟨encode_of_decodeRow, fun h => h ▸ decodeRow_encode i⟩

theorem decode_encode (i : Instr) : decode (encode i) = .ok i := decode_eq_ok_iff.2 rfl

theorem decodeBytes_encodeBytes (e : Config.Endian) (i : Instr) : decodeBytes e (encodeBytes e i) = .ok (i, []) := by
  simp [decodeBytes, encodeBytes, decode_encode]

/-! ## Words without an instruction (R121, R122) -/

theorem decodeRow_of_dspSpace (h : nib3 w = 0xF#4) : decodeRow w = none := by
  simp [decodeRow, h]

theorem decode_eq_dspSpace_iff : decode w = .error .dspSpace ↔ nib3 w = 0xF#4 := by
  constructor
  · intro h
    unfold decode at h
    split at h
    · cases h
    · split at h
      · assumption
      · cases h
  · intro h
    simp [decode, decodeRow_of_dspSpace h, h]

end

/-- Settles O1: the row of an encoded instruction, and the bytes of a word. -/
theorem decodeEncode : Obligations.DecodeEncode :=
  fun i => ⟨decode_encode i, fun e => decodeBytes_encodeBytes e i⟩

/-- Settles O2: a row fixes every field of the words that it matches. -/
theorem encodeDecode : Obligations.EncodeDecode := fun _ _ => decode_eq_ok_iff.1

/-- Settles O3: what the decoder answers where no row matches, and what executing such a word is. -/
theorem wordsWithoutInstruction : Obligations.WordsWithoutInstruction := by
  refine fun w => ⟨decode_eq_dspSpace_iff, fun hF s => ?_, fun hu s => ?_⟩
  · rw [Machine.runWord, decode_eq_dspSpace_iff.2 hF]
  · have hrun : Machine.runWord w s = Machine.raiseIllegal s := by rw [Machine.runWord, hu]
    rw [hrun, Machine.raiseIllegal]
    exact ⟨fun hp => by simp [hp], fun hp => by simp [Option.isSome_iff_ne_none.2 hp]⟩

/-- Settles O4: each word is the one the encoder writes for its instruction. -/
theorem sampleWords : Obligations.SampleWords := by
  simp only [Obligations.SampleWords, decode_eq_ok_iff]
  decide

end Sys2Proof

/-! PROOF. What the mode and a delay slot reject (30_encoding.md R123, R124), and that nothing else ends in the exceptions
they raise: the exceptions an instruction can raise itself (`exec_endsOwn`). -/

namespace Sys2Proof.Machine

/-! ## Instructions that the mode rejects (R123) -/

section

variable {s : State} {i : Instr} {o : Outcome}

theorem whenPrivileged_of_user (h : s.md = false) : whenPrivileged s o = raiseIllegal s := if_neg (by simp [h])

theorem whenDsp_of_off (h : s.dsp = false) : whenDsp s o = raiseIllegal s := if_neg (by simp [h])

theorem whenPrivilegedOrDsp_of_neither (h : (s.md || s.dsp) = false) : whenPrivilegedOrDsp s o = raiseIllegal s :=
  if_neg (by simp [h])

theorem whenNotInSlot_of_slot (h : s.pending.isSome = true) : whenNotInSlot s o = raise .slotIllegal s := if_pos h

/-- In a delay slot an illegal instruction and one that may not stand there raise the same exception (R124). -/
theorem whenNotInSlot_raiseIllegal (s : State) : whenNotInSlot s (raiseIllegal s) = raiseIllegal s := by
  cases h : s.pending.isSome <;> simp [whenNotInSlot, raiseIllegal, h]

theorem exec_of_needsPrivilege (hi : needsPrivilege i = true) (hm : s.md = false) : exec i s = raiseIllegal s := by
  cases i with
  | ldcVbr | ldcSgr | ldcSsr | ldcSpc | ldcDbr | ldcBank | ldcLVbr | ldcLSgr | ldcLSsr | ldcLSpc | ldcLDbr | ldcLBank
  | stcVbr | stcSgr | stcSsr | stcSpc | stcDbr | stcBank | stcLVbr | stcLSgr | stcLSsr | stcLSpc | stcLDbr | stcLBank
  | ldtlb | sleep => exact whenPrivileged_of_user hm
  | rte => exact (congrArg _ (whenPrivileged_of_user hm)).trans (whenNotInSlot_raiseIllegal s)
  | _ => cases hi

theorem exec_of_needsDsp (hi : needsDsp i = true) (hd : s.dsp = false) : exec i s = raiseIllegal s := by
  cases i with
  | clrdmxy | setdmx | setdmy | ldcMod | ldcRe | ldcRs | ldcLMod | ldcLRe | ldcLRs | stcMod | stcRe | stcRs | stcLMod
  | stcLRe | stcLRs | ldrc | ldrcImm | setrc | setrcImm | ldsDsr | ldsA0 | ldsX0 | ldsX1 | ldsY0 | ldsY1 | ldsLDsr
  | ldsLA0 | ldsLX0 | ldsLX1 | ldsLY0 | ldsLY1 | stsDsr | stsA0 | stsX0 | stsX1 | stsY0 | stsY1 | stsLDsr | stsLA0
  | stsLX0 | stsLX1 | stsLY0 | stsLY1 => exact whenDsp_of_off hd
  | ldre | ldrs => exact (congrArg _ (whenDsp_of_off hd)).trans (whenNotInSlot_raiseIllegal s)
  | _ => cases hi

theorem exec_of_isSrForm (hi : isSrForm i = true) (h : (s.md || s.dsp) = false) : exec i s = raiseIllegal s := by
  cases i with
  | stcSr | stcLSr => exact whenPrivilegedOrDsp_of_neither h
  | ldcSr | ldcLSr => exact (congrArg _ (whenPrivilegedOrDsp_of_neither h)).trans (whenNotInSlot_raiseIllegal s)
  | _ => cases hi

/-- An instruction that the mode rejects is an illegal instruction (60_exceptions.md R454, R455). -/
theorem exec_of_modeRejects (h : modeAllows i s = false) : exec i s = raiseIllegal s := by
  simp only [modeAllows, Bool.and_eq_false_iff, Bool.or_assoc, Bool.or_eq_false_iff (x := !_), Bool.not_eq_false'] at h
  rcases h with (⟨hi, hm⟩ | ⟨hi, hd⟩) | ⟨hi, h⟩
  · exact exec_of_needsPrivilege hi hm
  · exact exec_of_needsDsp hi hd
  · exact exec_of_isSrForm hi h

/-- An instruction that may not stand in a delay slot is slot illegal there, whatever the mode (R124). -/
theorem exec_of_slotIllegalAlways (hi : slotIllegalAlways i = true) (hs : s.pending.isSome = true) :
    exec i s = raise .slotIllegal s := by
  cases i with
  | bf | bfS | bt | btS | bra | braf | bsr | bsrf | jmp | jsr | rts | rte | trapa | movWLoadPc | movLLoadPc | mova
  | ldre | ldrs | ldcSr | ldcLSr | icbi | prefi => exact whenNotInSlot_of_slot hs
  | _ => cases hi

end

/-! ## The exceptions an instruction raises itself -/

/-- The exceptions that an instruction can raise which the mode and the slot let execute: data address errors, and, off
a delay slot, TRAPA's trap and the address error of ICBI (60_exceptions.md R453, R456, R457). -/
def OwnExc (slot : Bool) : Exc → Prop
  | .dataAddressErrorRead => True
  | .dataAddressErrorWrite => True
  | .unconditionalTrap => slot = false
  | .instructionAddressError => slot = false
  | .generalIllegal => False
  | .slotIllegal => False

/-- A fault that is no exception's, or that of one of these. -/
def OwnFault (slot : Bool) : Fault → Prop
  | .exceptionWithBlSet e => OwnExc slot e
  | .exceptionInRteSlot e => OwnExc slot e
  | _ => True

def OwnStop (slot : Bool) : Stop → Prop
  | .exc e => OwnExc slot e
  | .fault f => OwnFault slot f
  | .refused _ => True

/-- An access that stops does so with one of these exceptions, or with no exception. -/
def StopsOwn {α : Type} (slot : Bool) (r : Access α) : Prop := ∀ x, r = .error x → OwnStop slot x

/-- An outcome that is no other exception's: a next state has EXPEVT as `s` has it, or one of these exceptions' code. -/
def EndsOwn (slot : Bool) (s : State) : Outcome → Prop
  | .next t => t.expevt = s.expevt ∨ ∃ e, OwnExc slot e ∧ t.expevt = (excEntry s.params.excTable e).code
  | .fault f => OwnFault slot f
  | .refused _ => True

section

variable {slot store : Bool} {s u t : State} {a w : Word} {n : Nat} {e : Exc} {i : Instr} {o : Outcome} {α β : Type}

/-! ## How the accesses of an instruction stop -/

theorem StopsOwn.ok (v : α) : StopsOwn slot (.ok v : Access α) := nofun

theorem StopsOwn.error {x : Stop} (h : OwnStop slot x) : StopsOwn slot (.error x : Access α) := by
  rintro _ ⟨⟩; exact h

theorem StopsOwn.bind {r : Access α} {f : α → Access β} (hr : StopsOwn slot r) (hf : ∀ v, StopsOwn slot (f v)) :
    StopsOwn slot (r >>= f) := by
  cases r with
  | error x => exact .error (hr x rfl)
  | ok v => exact hf v

theorem StopsOwn.map {r : Access α} {f : α → β} (hr : StopsOwn slot r) : StopsOwn slot (r.map f) :=
  fun x hx => hr x (access_map_error.1 hx)

theorem StopsOwn.ite {c : Prop} [Decidable c] {r q : Access α} (hr : StopsOwn slot r) (hq : StopsOwn slot q) :
    StopsOwn slot (if c then r else q) := by
  split
  · exact hr
  · exact hq

theorem stopsOwn_checkAligned (he : OwnExc slot e) : StopsOwn slot (checkAligned a n e) := .ite (.ok _) (.error he)

theorem stopsOwn_checkPrivilege (he : OwnExc slot e) : StopsOwn slot (checkPrivilege s a e) := .ite (.error he) (.ok _)

theorem stopsOwn_checkRead : StopsOwn slot (checkRead s a) := by
  refine .ite (.error trivial) ?_
  split
  · exact .error trivial
  · exact .error trivial
  · exact .ok _
  · exact .ok _

theorem stopsOwn_checkWrite : StopsOwn slot (checkWrite s a) := by
  refine .ite (.error trivial) ?_
  split
  · exact .error trivial
  · exact .error trivial
  · exact .error trivial
  · exact .ok _

theorem stopsOwn_checkBlock (he : OwnExc slot e) : StopsOwn slot (checkBlock s a store e) := by
  refine .bind (stopsOwn_checkPrivilege he) fun _ => ?_
  split
  · exact .error trivial
  · exact .ite (.error trivial) (.ok _)
  · exact .ok _
  · exact .ok _

theorem stopsOwn_checkEach {check : Word → Access Unit} (h : ∀ b, StopsOwn slot (check b)) :
    ∀ n, StopsOwn slot (checkEach check a n)
  | 0 => .ok _
  | n + 1 => .bind (stopsOwn_checkEach h n) fun _ => h _

theorem stopsOwn_heldByte : StopsOwn slot (heldByte s a) := by
  unfold heldByte
  split
  · exact .ok _
  · exact .error trivial

theorem stopsOwn_hostAnswer : StopsOwn slot (hostAnswer s a n) := by
  unfold hostAnswer
  split
  · exact .ite (.ok _) (.error trivial)
  · exact .error trivial

theorem stopsOwn_hostTakes : StopsOwn slot (hostTakes s a n) := by
  unfold hostTakes
  split
  · exact .ite (.ok _) (.error trivial)
  · exact .error trivial

theorem stopsOwn_hostRead : StopsOwn slot (hostRead s a n) :=
  .bind (stopsOwn_checkEach (fun _ => .ite (.ok _) stopsOwn_checkRead) n) fun _ => stopsOwn_hostAnswer

theorem stopsOwn_hostWrite : StopsOwn slot (hostWrite s a n) :=
  .bind (stopsOwn_checkEach (fun _ => .ite (.ok _) stopsOwn_checkWrite) n) fun _ => stopsOwn_hostTakes

theorem stopsOwn_readByte : StopsOwn slot (readByte s a) :=
  .bind (stopsOwn_checkPrivilege trivial) fun _ =>
    .ite (.bind stopsOwn_hostRead fun _ => .ok _) (.bind stopsOwn_checkRead fun _ => stopsOwn_heldByte)

theorem stopsOwn_readByteForUpdate : StopsOwn slot (readByteForUpdate s a) :=
  .bind (stopsOwn_checkPrivilege trivial) fun _ =>
    .ite (.bind stopsOwn_hostRead fun _ => .ok _)
      (.bind stopsOwn_checkRead fun _ => .bind stopsOwn_checkWrite fun _ => stopsOwn_heldByte)

theorem stopsOwn_halfAt : StopsOwn slot (halfAt s a) :=
  .bind (stopsOwn_checkEach (fun _ => stopsOwn_checkRead) 2) fun _ =>
    .bind stopsOwn_heldByte fun _ => .bind stopsOwn_heldByte fun _ => .ok _

theorem stopsOwn_longAt : StopsOwn slot (longAt s a) :=
  .bind (stopsOwn_checkEach (fun _ => stopsOwn_checkRead) 4) fun _ =>
    .bind stopsOwn_heldByte fun _ => .bind stopsOwn_heldByte fun _ =>
      .bind stopsOwn_heldByte fun _ => .bind stopsOwn_heldByte fun _ => .ok _

theorem stopsOwn_readHalf : StopsOwn slot (readHalf s a) :=
  .bind (stopsOwn_checkAligned trivial) fun _ => .bind (stopsOwn_checkPrivilege trivial) fun _ =>
    .ite (.bind stopsOwn_hostRead fun _ => .ok _) stopsOwn_halfAt

theorem stopsOwn_readLong : StopsOwn slot (readLong s a) := by
  refine .bind (stopsOwn_checkAligned trivial) fun _ => .bind (stopsOwn_checkPrivilege trivial) fun _ => ?_
  split
  · exact .ok _
  · exact .ite stopsOwn_hostRead stopsOwn_longAt

theorem stopsOwn_readUnaligned : StopsOwn slot (readUnaligned s a) :=
  .ite stopsOwn_readLong
    (.bind (stopsOwn_checkPrivilege trivial) fun _ => .bind (stopsOwn_checkPrivilege trivial) fun _ =>
      .bind (stopsOwn_checkPrivilege trivial) fun _ => .bind (stopsOwn_checkPrivilege trivial) fun _ =>
        .ite stopsOwn_hostRead stopsOwn_longAt)

theorem stopsOwn_writeByte {v : Byte} : StopsOwn slot (writeByte s a v) :=
  .bind (stopsOwn_checkPrivilege trivial) fun _ =>
    .ite stopsOwn_hostWrite (.bind stopsOwn_checkWrite fun _ => .ok _)

theorem stopsOwn_writeHalf {v : Half} : StopsOwn slot (writeHalf s a v) :=
  .bind (stopsOwn_checkAligned trivial) fun _ => .bind (stopsOwn_checkPrivilege trivial) fun _ =>
    .ite stopsOwn_hostWrite (.bind (stopsOwn_checkEach (fun _ => stopsOwn_checkWrite) 2) fun _ => .ok _)

theorem stopsOwn_controlWrite (c : ControlReg) : StopsOwn slot (s.controlWrite a w c) := by
  cases c with
  | pteh | ptel => exact .ok _
  | mmucr => exact .ite (.error trivial) (.ok _)
  | tra | expevt | intevt => exact .error trivial

theorem stopsOwn_writeLong : StopsOwn slot (writeLong s a w) := by
  refine .bind (stopsOwn_checkAligned trivial) fun _ => .bind (stopsOwn_checkPrivilege trivial) fun _ => ?_
  split
  · exact .bind (stopsOwn_controlWrite _) fun _ => .ok _
  · exact .ite stopsOwn_hostWrite (.bind (stopsOwn_checkEach (fun _ => stopsOwn_checkWrite) 4) fun _ => .ok _)

theorem stopsOwn_useLdtlb : StopsOwn slot s.useLdtlb := by
  unfold State.useLdtlb
  split
  · exact .error trivial
  · exact .ok _

theorem stopsOwn_setRepeatCount {c : BitVec 12} : StopsOwn slot (setRepeatCount s c) := .ite (.error trivial) (.ok _)

/-! ## How an instruction ends -/

theorem endsOwn_next (h : t.expevt = s.expevt) : EndsOwn slot s (.next t) := Or.inl h

theorem endsOwn_done (h : u.expevt = s.expevt) : EndsOwn slot s (done u) :=
  endsOwn_next ((State.advance_expevt u).trans h)

/-- An exception raised after a change of other fields, as TRAPA's is after the write of TRA. -/
theorem endsOwn_raise (he : OwnExc slot e) (hp : u.params = s.params) : EndsOwn slot s (raise e u) := by
  unfold raise
  split
  · exact he
  · split
    · exact he
    · exact Or.inr ⟨e, he, congrArg (fun p : Config.Params => (excEntry p.excTable e).code) hp⟩

theorem endsOwn_complete {r : Access State} (hr : StopsOwn slot r) (hu : ∀ u, r = .ok u → u.expevt = s.expevt) :
    EndsOwn slot s (complete s r) := by
  cases r with
  | ok u => exact endsOwn_done (hu u rfl)
  | error x =>
    have hx := hr x rfl
    cases x with
    | exc e => exact endsOwn_raise hx rfl
    | fault f => exact hx
    | refused r => trivial

theorem endsOwn_map {r : Access α} {k : α → State} (hr : StopsOwn slot r)
    (hk : ∀ v, r = .ok v → (k v).expevt = s.expevt) : EndsOwn slot s (complete s (r.map k)) := by
  refine endsOwn_complete hr.map fun u hu => ?_
  obtain ⟨v, hv, rfl⟩ := access_map_ok.1 hu
  exact hk v hv

theorem endsOwn_loadByte {k : Byte → State} (h : ∀ v, (k v).expevt = s.expevt) : EndsOwn slot s (loadByte s a k) :=
  endsOwn_map stopsOwn_readByte fun v _ => (State.hostTaken_expevt _ _).trans (h v)

theorem endsOwn_loadHalf {k : Half → State} (h : ∀ v, (k v).expevt = s.expevt) : EndsOwn slot s (loadHalf s a k) :=
  endsOwn_map stopsOwn_readHalf fun v _ => (State.hostTaken_expevt _ _).trans (h v)

theorem endsOwn_loadLong {k : Word → State} (h : ∀ v, (k v).expevt = s.expevt) : EndsOwn slot s (loadLong s a k) :=
  endsOwn_map stopsOwn_readLong fun v _ => (State.hostTaken_expevt _ _).trans (h v)

theorem endsOwn_loadUnaligned {k : Word → State} (h : ∀ v, (k v).expevt = s.expevt) :
    EndsOwn slot s (loadUnaligned s a k) :=
  endsOwn_map stopsOwn_readUnaligned fun v _ => (State.hostTaken_expevt _ _).trans (h v)

/-- No store writes EXPEVT, which is mapped read-only (20_memory.md R84). -/
theorem expevt_writeByte {v : Byte} (h : writeByte s a v = .ok u) : u.expevt = s.expevt :=
  (kept_writeByte (wt := true) (ws := true) h).expevt

theorem expevt_writeHalf {v : Half} (h : writeHalf s a v = .ok u) : u.expevt = s.expevt :=
  (kept_writeHalf (wt := true) (ws := true) h).expevt

theorem expevt_writeLong (h : writeLong s a w = .ok u) : u.expevt = s.expevt :=
  (kept_writeLong (wt := true) (ws := true) h).expevt

theorem endsOwn_storeByte {v : Byte} {k : State → State} (h : ∀ u, (k u).expevt = u.expevt) :
    EndsOwn slot s (storeByte s a v k) :=
  endsOwn_map stopsOwn_writeByte fun u hu => (h u).trans (expevt_writeByte hu)

theorem endsOwn_storeHalf {v : Half} {k : State → State} (h : ∀ u, (k u).expevt = u.expevt) :
    EndsOwn slot s (storeHalf s a v k) :=
  endsOwn_map stopsOwn_writeHalf fun u hu => (h u).trans (expevt_writeHalf hu)

theorem endsOwn_storeLong {k : State → State} (h : ∀ u, (k u).expevt = u.expevt) : EndsOwn slot s (storeLong s a w k) :=
  endsOwn_map stopsOwn_writeLong fun u hu => (h u).trans (expevt_writeLong hu)

theorem endsOwn_popLong {m : Reg} {k : Word → State} (h : ∀ v, (k v).expevt = s.expevt) :
    EndsOwn slot s (popLong s m k) :=
  endsOwn_loadLong fun v => (State.setR_expevt _ _ _).trans (h v)

theorem endsOwn_pushLong {n : Reg} : EndsOwn slot s (pushLong s n w) :=
  endsOwn_storeLong fun u => State.setR_expevt u _ _

theorem endsOwn_updateByte {f : Byte → Byte} {g : Byte → State → State} (h : ∀ b u, (g b u).expevt = u.expevt) :
    EndsOwn slot s (updateByte s a f g) := by
  refine endsOwn_complete
    (.bind stopsOwn_readByteForUpdate fun _ => .bind stopsOwn_writeByte fun _ => .ok _) fun u hu => ?_
  obtain ⟨b, -, hu⟩ := access_bind_ok.1 hu
  obtain ⟨t, ht, hu⟩ := access_bind_ok.1 hu
  cases hu
  exact (h b t).trans ((expevt_writeByte ht).trans (State.hostTaken_expevt _ _))

theorem endsOwn_privileged (hm : s.md = true) (h : EndsOwn slot s o) : EndsOwn slot s (whenPrivileged s o) :=
  (whenPrivileged_of_md hm).symm ▸ h

theorem endsOwn_dsp (hd : s.dsp = true) (h : EndsOwn slot s o) : EndsOwn slot s (whenDsp s o) :=
  (whenDsp_of_dsp hd).symm ▸ h

theorem endsOwn_privilegedOrDsp (hm : (s.md || s.dsp) = true) (h : EndsOwn slot s o) :
    EndsOwn slot s (whenPrivilegedOrDsp s o) :=
  (whenPrivilegedOrDsp_of_mode hm).symm ▸ h

theorem endsOwn_notInSlot (hp : s.pending = none) (h : EndsOwn slot s o) : EndsOwn slot s (whenNotInSlot s o) :=
  (whenNotInSlot_of_none hp).symm ▸ h

/-! ## The instructions whose body is their own -/

theorem endsOwn_bf (d : BitVec 8) (hp : s.pending = none) : EndsOwn slot s (execBf d s) := by
  rw [execBf_eq_jumpTo hp]
  exact endsOwn_next rfl

theorem endsOwn_bt (d : BitVec 8) (hp : s.pending = none) : EndsOwn slot s (execBt d s) := by
  rw [execBt_eq_jumpTo hp]
  exact endsOwn_next rfl

theorem endsOwn_macL (m n : Reg) : EndsOwn slot s (execMacL m n s) := by
  refine endsOwn_complete (.bind stopsOwn_readLong fun _ => .bind stopsOwn_readLong fun _ => .ok _) fun u hu => ?_
  obtain ⟨vn, -, hu⟩ := access_bind_ok.1 hu
  obtain ⟨vm, -, hu⟩ := access_bind_ok.1 hu
  cases hu
  simp

theorem endsOwn_macW (m n : Reg) : EndsOwn slot s (execMacW m n s) := by
  refine endsOwn_complete (.bind stopsOwn_readHalf fun _ => .bind stopsOwn_readHalf fun _ => .ok _) fun u hu => ?_
  obtain ⟨vn, -, hu⟩ := access_bind_ok.1 hu
  obtain ⟨vm, -, hu⟩ := access_bind_ok.1 hu
  cases hu
  simp

theorem endsOwn_movcoL (n : Reg) : EndsOwn slot s (execMovcoL n s) := by
  unfold execMovcoL
  split
  · exact endsOwn_storeLong fun _ => rfl
  · exact endsOwn_done rfl

/-- The block operations: after the check of the address, a change that leaves EXPEVT. -/
theorem endsOwn_block (he : OwnExc slot e) (h : u.expevt = s.expevt) :
    EndsOwn slot s (complete s (do checkBlock s a store e; pure u)) := by
  refine endsOwn_complete (.bind (stopsOwn_checkBlock he) fun _ => .ok _) fun t ht => ?_
  obtain ⟨-, -, ht⟩ := access_bind_ok.1 ht
  cases ht
  exact h

theorem endsOwn_ldcLSr (m : Reg) (hp : s.pending = none) (hm : (s.md || s.dsp) = true) :
    EndsOwn slot s (execLdcLSr m s) := by
  refine endsOwn_notInSlot hp (endsOwn_privilegedOrDsp hm (endsOwn_complete
    (.bind stopsOwn_readLong fun _ => .ite (.error trivial) (.ok _)) fun u hu => ?_))
  obtain ⟨v, -, hu⟩ := access_bind_ok.1 hu
  dsimp only at hu
  split at hu
  · cases hu
  · cases hu
    simp

theorem expevt_setRepeatCount {c : BitVec 12} (h : setRepeatCount s c = .ok u) : u.expevt = s.expevt :=
  (kept_setRepeatCount (wt := true) (ws := true) h).expevt

theorem expevt_useLdtlb (hm : s.md = true) (h : s.useLdtlb = .ok u) : u.expevt = s.expevt :=
  (kept_useLdtlb (wt := true) (ws := true) hm h).expevt

/-- An instruction that may not stand in a delay slot executes off one, where more exceptions are its own. -/
theorem mayExecute.slot_eq_false (h : mayExecute i s) (hi : slotIllegalAlways i = true) : s.pending.isSome = false := by
  rw [h.pending hi]; rfl

/-- An instruction that the mode and the slot let execute raises no exception but its own. -/
theorem exec_endsOwn (h : mayExecute i s) : EndsOwn s.pending.isSome s (exec i s) := by
  cases i with
  | add | addImm | addc | addv | cmpEq | cmpGe | cmpGt | cmpHi | cmpHs | cmpPl | cmpPz | cmpStr | cmpEqImm | div0s
  | div0u | div1 | dmulsL | dmuluL | dt | extsB | extsW | extuB | extuW | mulL | mulsW | muluW | neg | negc | sub | subc
  | subv => exact endsOwn_done (by simp)
  | andReg | andImm | notReg | orReg | orImm | tstReg | tstImm | xorReg | xorImm => exact endsOwn_done (by simp)
  | clrmac | clrs | clrt | ldcGbr | ldsMach | ldsMacl | ldsPr | nop | sets | sett | stcGbr | stsMach | stsMacl | stsPr =>
    exact endsOwn_done (by simp)
  | mov | movImm | movt | swapB | swapW | xtrct | pref | synco => exact endsOwn_done (by simp)
  | rotcl | rotcr | rotl | rotr | shad | shal | shar | shld | shll | shll2 | shll8 | shll16 | shlr | shlr2 | shlr8
  | shlr16 => exact endsOwn_done (by simp)
  | movBLoad | movBLoadIdx | movBLoadGbr | movBLoadDisp => exact endsOwn_loadByte fun _ => by simp
  | movWLoad | movWLoadIdx | movWLoadGbr | movWLoadDisp => exact endsOwn_loadHalf fun _ => by simp
  | movLLoad | movLLoadIdx | movLLoadGbr | movLLoadDisp | movliL => exact endsOwn_loadLong fun _ => by simp
  | movBLoadInc => exact endsOwn_loadByte fun _ => (SameRest.loadInc ..).expevt
  | movWLoadInc => exact endsOwn_loadHalf fun _ => (SameRest.loadInc ..).expevt
  | movLLoadInc => exact endsOwn_loadLong fun _ => (SameRest.loadInc ..).expevt
  | movuaL => exact endsOwn_loadUnaligned fun _ => by simp
  | movuaLInc => exact endsOwn_loadUnaligned fun _ => (SameRest.loadInc ..).expevt
  | movBStore | movBStoreDec | movBStoreIdx | movBStoreGbr | movBStoreDisp => exact endsOwn_storeByte fun _ => by simp
  | movWStore | movWStoreDec | movWStoreIdx | movWStoreGbr | movWStoreDisp => exact endsOwn_storeHalf fun _ => by simp
  | movLStore | movLStoreDec | movLStoreIdx | movLStoreGbr | movLStoreDisp | movcaL =>
    exact endsOwn_storeLong fun _ => by simp
  | andB | orB | tasB | xorB => exact endsOwn_updateByte fun _ _ => by simp
  | tstB => exact endsOwn_map stopsOwn_readByteForUpdate fun _ _ => by simp
  | macL m n => exact endsOwn_macL m n
  | macW m n => exact endsOwn_macW m n
  | movcoL n => exact endsOwn_movcoL n
  | ocbi | ocbp | ocbwb => exact endsOwn_block trivial (by simp)
  | ldcLGbr | ldsLMach | ldsLMacl | ldsLPr => exact endsOwn_popLong fun _ => by simp
  | stcLGbr | stsLMach | stsLMacl | stsLPr => exact endsOwn_pushLong
  | ldcVbr | ldcSgr | ldcSsr | ldcSpc | ldcDbr | ldcBank | sleep | stcVbr | stcSsr | stcSpc | stcSgr | stcDbr | stcBank =>
    exact endsOwn_privileged (h.md rfl) (endsOwn_done (by simp))
  | ldcLVbr | ldcLSgr | ldcLSsr | ldcLSpc | ldcLDbr | ldcLBank =>
    exact endsOwn_privileged (h.md rfl) (endsOwn_popLong fun _ => by simp)
  | stcLVbr | stcLSsr | stcLSpc | stcLSgr | stcLDbr | stcLBank =>
    exact endsOwn_privileged (h.md rfl) endsOwn_pushLong
  | ldtlb =>
    exact endsOwn_privileged (h.md rfl) (endsOwn_complete stopsOwn_useLdtlb fun _ => expevt_useLdtlb (h.md rfl))
  | clrdmxy | setdmx | setdmy | ldcMod | ldcRe | ldcRs | ldsDsr | ldsA0 | ldsX0 | ldsX1 | ldsY0 | ldsY1 | stcMod | stcRe
  | stcRs | stsDsr | stsA0 | stsX0 | stsX1 | stsY0 | stsY1 => exact endsOwn_dsp (h.dsp rfl) (endsOwn_done (by simp))
  | ldcLMod | ldcLRe | ldcLRs | ldsLDsr | ldsLA0 | ldsLX0 | ldsLX1 | ldsLY0 | ldsLY1 =>
    exact endsOwn_dsp (h.dsp rfl) (endsOwn_popLong fun _ => by simp)
  | stcLMod | stcLRe | stcLRs | stsLDsr | stsLA0 | stsLX0 | stsLX1 | stsLY0 | stsLY1 =>
    exact endsOwn_dsp (h.dsp rfl) endsOwn_pushLong
  | setrc | setrcImm =>
    exact endsOwn_dsp (h.dsp rfl) (endsOwn_complete stopsOwn_setRepeatCount fun _ => expevt_setRepeatCount)
  | ldrc | ldrcImm =>
    exact endsOwn_dsp (h.dsp rfl) (endsOwn_map stopsOwn_setRepeatCount fun _ => expevt_setRepeatCount)
  | stcSr => exact endsOwn_privilegedOrDsp (h.mdOrDsp rfl) (endsOwn_done (by simp))
  | stcLSr => exact endsOwn_privilegedOrDsp (h.mdOrDsp rfl) endsOwn_pushLong
  | ldcSr => exact endsOwn_notInSlot (h.pending rfl) (endsOwn_privilegedOrDsp (h.mdOrDsp rfl) (endsOwn_done rfl))
  | ldcLSr m => exact endsOwn_ldcLSr m (h.pending rfl) (h.mdOrDsp rfl)
  | ldre | ldrs => exact endsOwn_notInSlot (h.pending rfl) (endsOwn_dsp (h.dsp rfl) (endsOwn_done rfl))
  | bfS | bra | braf | btS | jmp | rts | bsr | bsrf | jsr =>
    exact endsOwn_notInSlot (h.pending rfl) (endsOwn_next rfl)
  | bf d => exact endsOwn_bf d (h.pending rfl)
  | bt d => exact endsOwn_bt d (h.pending rfl)
  | rte => exact endsOwn_notInSlot (h.pending rfl) (endsOwn_privileged (h.md rfl) (endsOwn_next rfl))
  | trapa => exact endsOwn_notInSlot (h.pending rfl) (endsOwn_raise (h.slot_eq_false rfl) rfl)
  | movWLoadPc => exact endsOwn_notInSlot (h.pending rfl) (endsOwn_loadHalf fun _ => by simp)
  | movLLoadPc => exact endsOwn_notInSlot (h.pending rfl) (endsOwn_loadLong fun _ => by simp)
  | mova | prefi => exact endsOwn_notInSlot (h.pending rfl) (endsOwn_done (by simp))
  | icbi => exact endsOwn_notInSlot (h.pending rfl) (endsOwn_block (h.slot_eq_false rfl) rfl)

/-! ## What EXPEVT says of an outcome -/

theorem EndsOwn.expevt (h : EndsOwn slot s o) (ho : o = .next t) :
    t.expevt = s.expevt ∨ ∃ e, OwnExc slot e ∧ t.expevt = (excEntry s.params.excTable e).code := by
  subst ho; exact h

theorem EndsOwn.not_slotIllegal_fault (h : EndsOwn slot s o) :
    o ≠ .fault (.exceptionWithBlSet .slotIllegal) ∧ o ≠ .fault (.exceptionInRteSlot .slotIllegal) :=
  ⟨fun ho => by subst ho; exact h, fun ho => by subst ho; exact h⟩

end

/-- Settles O47: the three mode conditions each reject as an illegal instruction, and off a slot an instruction that
they let execute raises only exceptions of its own. -/
theorem modeConditions : Obligations.ModeConditions := by
  refine fun s i => ⟨exec_of_modeRejects, fun hmode hp t ht => ?_⟩
  rcases (exec_endsOwn ⟨hmode, Or.inl hp⟩).expevt ht with hkept | ⟨e, he, hcode⟩
  · exact Or.inl hkept
  · cases e with
    | dataAddressErrorRead => exact Or.inr (Or.inl hcode)
    | dataAddressErrorWrite => exact Or.inr (Or.inr (Or.inl hcode))
    | unconditionalTrap => exact Or.inr (Or.inr (Or.inr (Or.inl hcode)))
    | instructionAddressError => exact Or.inr (Or.inr (Or.inr (Or.inr hcode)))
    | generalIllegal | slotIllegal => exact he.elim

/-- Settles O48: what is slot illegal always, by the mode, or by SLOT_ILLEGAL_EXTRA; and in a slot an instruction that may
execute raises data address errors only. -/
theorem slotIllegalSet : Obligations.SlotIllegalSet := by
  refine fun s i hs => ⟨?_, fun w hw hextra => ?_, fun hi hmode => ?_⟩
  · rintro (hi | hmode)
    · exact exec_of_slotIllegalAlways hi hs
    · rw [exec_of_modeRejects hmode, raiseIllegal, if_pos hs]
  · have hslot : slotExtra s w = true := by rw [slotExtra, hs, hextra]; rfl
    simp only [runWord, hw, hslot, if_true]
  · have hends : EndsOwn true s (exec i s) := hs ▸ exec_endsOwn ⟨hmode, Or.inr hi⟩
    obtain ⟨hbl, hrte⟩ := hends.not_slotIllegal_fault
    refine ⟨hbl, hrte, fun t ht => ?_⟩
    rcases hends.expevt ht with hkept | ⟨e, he, hcode⟩
    · exact Or.inl hkept
    · cases e with
      | dataAddressErrorRead => exact Or.inr (Or.inl hcode)
      | dataAddressErrorWrite => exact Or.inr (Or.inr hcode)
      | unconditionalTrap | instructionAddressError => exact absurd he nofun
      | generalIllegal | slotIllegal => exact he.elim

end Sys2Proof.Machine

/-! PROOF. The arithmetic instructions: T, Q and M as claims write them, what an instruction's body leaves before the pc
advances (`Updates`), the arithmetic of each result, then each statement. -/

namespace Sys2Proof.Machine

section

variable {s u u' v v' : State} {i : Instr} {regs : Reg → Word} {sr sr' : Word}

/-! ## T, Q and M as claims write them -/

/-- T written (10_state.md R26). -/
theorem withBit_T (w : Word) (b : Bool) : withBit w 0 b = srT w b := by
  have hmask : ∀ k < 32, (0xFFFFFFFE#32).getLsbD k = decide (k ≠ 0) := by decide
  have ht : ∀ k < 32, (if b then 0x00000001#32 else 0#32).getLsbD k = (b && decide (k = 0)) := by cases b <;> decide
  apply BitVec.eq_of_getLsbD_eq
  intro k hk
  rw [getLsbD_withBit _ _ _ _ (by omega), srT, BitVec.getLsbD_or, BitVec.getLsbD_and, hmask k hk, ht k hk]
  by_cases h0 : k = 0
  · simp [h0]
  · simp [h0, Ne.symm h0]

/-- Q, M and T written (R26, R28). -/
theorem withBit_QMT (w : Word) (q m b : Bool) : withBit (withBit (withBit w 8 q) 9 m) 0 b = srQMT w q m b := by
  have hmask : ∀ k < 32, (0xFFFFFCFE#32).getLsbD k = decide (k ≠ 0 ∧ k ≠ 8 ∧ k ≠ 9) := by decide
  have hq : ∀ k < 32, (if q then 0x00000100#32 else 0#32).getLsbD k = (q && decide (k = 8)) := by cases q <;> decide
  have hm : ∀ k < 32, (if m then 0x00000200#32 else 0#32).getLsbD k = (m && decide (k = 9)) := by cases m <;> decide
  have ht : ∀ k < 32, (if b then 0x00000001#32 else 0#32).getLsbD k = (b && decide (k = 0)) := by cases b <;> decide
  apply BitVec.eq_of_getLsbD_eq
  intro k hk
  rw [getLsbD_withBit _ _ _ _ (by omega), getLsbD_withBit _ _ _ _ (by omega), getLsbD_withBit _ _ _ _ (by omega), srQMT,
    BitVec.getLsbD_or, BitVec.getLsbD_or, BitVec.getLsbD_or, BitVec.getLsbD_and, hmask k hk, hq k hk, hm k hk, ht k hk]
  by_cases h0 : k = 0
  · simp [h0]
  by_cases h9 : k = 9
  · simp [h9]
  by_cases h8 : k = 8
  · simp [h8]
  simp [h0, h8, h9, Ne.symm h0, Ne.symm h8, Ne.symm h9]

/-- Two different bits may be written in either order. -/
theorem withBit_comm (w : Word) {j k : Nat} (b c : Bool) (hj : j < 32) (hk : k < 32) (hne : j ≠ k) :
    withBit (withBit w j b) k c = withBit (withBit w k c) j b := by
  apply BitVec.eq_of_getLsbD_eq
  intro l _
  simp only [getLsbD_withBit _ _ _ _ hj, getLsbD_withBit _ _ _ _ hk]
  by_cases hl : j = l
  · simp [hl, show k ≠ l from hl ▸ hne.symm]
  · simp [hl]

/-- M, Q and T written. -/
theorem withBit_MQT (w : Word) (q m b : Bool) : withBit (withBit (withBit w 9 m) 8 q) 0 b = srQMT w q m b := by
  rw [withBit_comm w m q (by omega) (by omega) (by omega), withBit_QMT]

/-- A bit written with what it holds. -/
theorem withBit_getLsbD (w : Word) {j : Nat} (hj : j < 32) : withBit w j (w.getLsbD j) = w := by
  apply BitVec.eq_of_getLsbD_eq
  intro k _
  rw [getLsbD_withBit _ _ _ _ hj]
  split
  · subst_vars; rfl
  · rfl

/-! ## What an instruction's body leaves before the pc advances -/

/-- `u` is what the body of an instruction at `s` leaves that is no branch and stores nothing: the general registers
are `regs`, SR is `sr`, and every special register is as in `v`. -/
structure Updates (s : State) (regs : Reg → Word) (sr : Word) (v u : State) : Prop where
  registers : Registers s regs u
  status : u.sr = sr
  rest : SameRest v u
  mem : u.mem = s.mem
  dirty : u.dirtyCode = s.dirtyCode
  pc : u.pc = s.pc
  pending : u.pending = s.pending

/-- Once the pc advances, it is what claims say of an instruction. -/
theorem Updates.leaves (h : Updates s regs sr v u) : Leaves s regs sr v u.advance :=
  Leaves.advance h.registers h.status h.rest h.mem h.dirty h.pc h.pending

theorem Updates.completes (h : Updates s regs sr v u) (hexec : exec i s = done u) :
    Completes i s (Leaves s regs sr v) :=
  completes_of_done hexec h.leaves

theorem Updates.refl (s : State) : Updates s s.r s.sr s s :=
  ⟨⟨fun _ => rfl, fun _ => rfl⟩, rfl, SameRest.refl s, rfl, rfl, rfl, rfl⟩

/-- A further change of SR or of special registers that leaves the current bank. -/
theorem Updates.change (h : Updates s regs sr v u) (hbanks : SameBanks u u') (hsel : u'.bankSel = u.bankSel)
    (hsr : u'.sr = sr') (hrest : SameRest v' u') (hmem : u'.mem = u.mem) (hdirty : u'.dirtyCode = u.dirtyCode)
    (hpc : u'.pc = u.pc) (hp : u'.pending = u.pending) : Updates s regs sr' v' u' :=
  let ⟨hr, hbank⟩ := h.registers
  let ⟨hr', hbank'⟩ := Registers.of_banks hbanks hsel
  ⟨⟨fun i => (hr' i).trans (hr i), fun b => (hbank' b).trans (hbank b)⟩, hsr, hrest, hmem.trans h.mem,
    hdirty.trans h.dirty, hpc.trans h.pc, hp.trans h.pending⟩

theorem Updates.setR (h : Updates s regs sr v u) (n : Reg) (w : Word) :
    Updates s (withReg regs n w) sr v (u.setR n w) where
  registers := by
    obtain ⟨hr, hbank⟩ := h.registers
    exact ⟨fun i => by rw [State.setR_r, hr, withReg], fun b => by rw [State.setR_bankR, hbank]⟩
  status := by rw [State.setR_sr, h.status]
  rest := h.rest.trans (SameRest.setR u n w)
  mem := by rw [State.setR_mem, h.mem]
  dirty := by rw [State.setR_dirtyCode, h.dirty]
  pc := by rw [State.setR_pc, h.pc]
  pending := by rw [State.setR_pending, h.pending]

theorem Updates.setT (h : Updates s regs sr v u) (b : Bool) : Updates s regs (srT sr b) v (u.setT b) :=
  h.change ⟨rfl, rfl, rfl⟩ (u.setT_bankSel b) (by rw [← h.status, ← withBit_T]; rfl)
    (h.rest.trans (by constructor <;> rfl)) rfl rfl rfl rfl

theorem Updates.setQ (h : Updates s regs sr v u) (b : Bool) : Updates s regs (withBit sr 8 b) v (u.setQ b) :=
  h.change ⟨rfl, rfl, rfl⟩ (u.setQ_bankSel b) (by rw [← h.status]; rfl) (h.rest.trans (by constructor <;> rfl))
    rfl rfl rfl rfl

theorem Updates.setM (h : Updates s regs sr v u) (b : Bool) : Updates s regs (withBit sr 9 b) v (u.setM b) :=
  h.change ⟨rfl, rfl, rfl⟩ (u.setM_bankSel b) (by rw [← h.status]; rfl) (h.rest.trans (by constructor <;> rfl))
    rfl rfl rfl rfl

/-- A register gets a value. -/
theorem completes_setR {n : Reg} {w : Word} (h : exec i s = done (s.setR n w)) :
    Completes i s (Leaves s (withReg s.r n w) s.sr s) :=
  completes_of_done h (Leaves.setR s n w)

/-- T gets a value. -/
theorem completes_setT {b : Bool} (h : exec i s = done (s.setT b)) : Completes i s (Leaves s s.r (srT s.sr b) s) :=
  ((Updates.refl s).setT b).completes h

/-- A register and T each get a value. -/
theorem completes_setR_setT {n : Reg} {w : Word} {b : Bool} (h : exec i s = done ((s.setR n w).setT b)) :
    Completes i s (Leaves s (withReg s.r n w) (srT s.sr b) s) :=
  (((Updates.refl s).setR n w).setT b).completes h

end

/-! ## Sums, differences and extensions -/

/-- Signed overflow of a sum is the sum's leaving the range of 32 bits (40_arithmetic.md R144). -/
theorem addOverflow_eq (a b : Word) :
    addOverflow a b = decide (a.toInt + b.toInt < -2 ^ 31 ∨ 2 ^ 31 ≤ a.toInt + b.toInt) := by
  have h : addOverflow a b = a.saddOverflow b := (BitVec.saddOverflow_eq a b).symm
  rw [h, BitVec.saddOverflow, Bool.decide_or, Bool.or_comm]

/-- Signed overflow of a difference (R174). -/
theorem subOverflow_eq (a b : Word) :
    subOverflow a b = decide (a.toInt - b.toInt < -2 ^ 31 ∨ 2 ^ 31 ≤ a.toInt - b.toInt) := by
  have h : subOverflow a b = a.ssubOverflow b := by
    rw [BitVec.ssubOverflow_eq, subOverflow]
    cases a.msb <;> cases b.msb <;> simp
  rw [h, BitVec.ssubOverflow, Bool.decide_or, Bool.or_comm]

/-- What a decrement leaves is 0 exactly where it was 1 (R160). -/
theorem sub_one_beq_zero (a : Word) : (a - 1 == 0) = decide (a = 1#32) := by
  rw [beq_eq_decide]
  exact decide_eq_decide.2 sub_eq_zero

/-- Zero extension of the low byte keeps the bits of a mask (R163). -/
theorem zext_lowByte (a : Word) : zext (lowByte a) = a &&& 0x000000FF#32 := by
  apply BitVec.eq_of_toNat_eq
  have h := toNat_extractLsb'_eq_mask a 0x000000FF#32 0 8 (by omega) (by decide)
  rw [BitVec.ushiftRight_zero] at h
  rw [← h, zext, lowByte, BitVec.toNat_setWidth_of_le (by omega)]

/-- Zero extension of the low word (R164). -/
theorem zext_lowHalf (a : Word) : zext (lowHalf a) = a &&& 0x0000FFFF#32 := by
  apply BitVec.eq_of_toNat_eq
  have h := toNat_extractLsb'_eq_mask a 0x0000FFFF#32 0 16 (by omega) (by decide)
  rw [BitVec.ushiftRight_zero] at h
  rw [← h, zext, lowHalf, BitVec.toNat_setWidth_of_le (by omega)]

theorem lowByte_eq_setWidth (a : Word) : lowByte a = a.setWidth 8 := (BitVec.setWidth_eq_extractLsb' (by omega)).symm

theorem lowHalf_eq_setWidth (a : Word) : lowHalf a = a.setWidth 16 := (BitVec.setWidth_eq_extractLsb' (by omega)).symm

/-- Settles O8: the model computes the same exact sum and differences. -/
theorem arithmeticCarry : Obligations.ArithmeticCarry := by
  exact fun s m n => ⟨completes_setR_setT rfl, completes_setR_setT rfl, completes_setR_setT rfl⟩

/-- Settles O9: signed overflow as the exact range, and when a decrement leaves 0. -/
theorem arithmeticOverflow : Obligations.ArithmeticOverflow := by
  refine fun s m n => ⟨?addv, ?subv, ?dt⟩
  case addv => exact completes_setR_setT (addOverflow_eq (s.r n) (s.r m) ▸ rfl)
  case subv => exact completes_setR_setT (subOverflow_eq (s.r n) (s.r m) ▸ rfl)
  case dt => exact completes_setR_setT (sub_one_beq_zero (s.r n) ▸ rfl)

/-- Settles O7: each form is one write of a register. -/
theorem arithmeticRegister : Obligations.ArithmeticRegister := by
  refine fun s m n i => ⟨completes_setR rfl, completes_setR rfl, completes_setR rfl, completes_setR rfl, ?extsB, ?extsW,
    ?extuB, ?extuW, ?_, ?_, ?_, ?_, ?_, ?_, ?_, ?_⟩
  case extsB => exact lowByte_eq_setWidth (s.r m) ▸ completes_setR rfl
  case extsW => exact lowHalf_eq_setWidth (s.r m) ▸ completes_setR rfl
  case extuB => exact zext_lowByte (s.r m) ▸ completes_setR rfl
  case extuW => exact zext_lowHalf (s.r m) ▸ completes_setR rfl
  all_goals exact decode_eq_ok_iff.2 rfl

/-! ## Comparisons -/

/-- Two bytes differ nowhere exactly where they are equal. -/
theorem extractLsb'_xor_beq_zero (a b : Word) (j : Nat) :
    ((a ^^^ b).extractLsb' j 8 == 0) = decide (a.extractLsb' j 8 = b.extractLsb' j 8) := by
  rw [beq_eq_decide, BitVec.extractLsb'_xor]
  exact decide_eq_decide.2 BitVec.xor_eq_zero_iff

/-- Some byte equals the byte at the same position (40_arithmetic.md R152). -/
theorem someByteEqual_eq (a b : Word) : someByteEqual a b =
    decide (∃ k : Fin 4, a.extractLsb' (8 * k.val) 8 = b.extractLsb' (8 * k.val) 8) := by
  simp only [someByteEqual, extractLsb'_xor_beq_zero, Fin.exists_iff, ← Bool.decide_or]
  refine decide_eq_decide.2 ⟨?_, ?_⟩
  · rintro (((h | h) | h) | h)
    exacts [⟨3, by omega, h⟩, ⟨2, by omega, h⟩, ⟨1, by omega, h⟩, ⟨0, by omega, h⟩]
  · rintro ⟨k, hk, h⟩
    obtain rfl | rfl | rfl | rfl : k = 0 ∨ k = 1 ∨ k = 2 ∨ k = 3 := by omega
    exacts [.inr h, .inl (.inr h), .inl (.inl (.inr h)), .inl (.inl (.inl h))]

/-- Settles O10: each form is one write of T. -/
theorem compares : Obligations.Compares := by
  refine fun s m n i => ⟨?eq, completes_setT rfl, completes_setT rfl, completes_setT rfl, completes_setT rfl,
    completes_setT rfl, completes_setT rfl, ?str, ?eqImm, ?_, ?_, ?_, ?_, ?_, ?_, ?_, ?_, ?_⟩
  case eq => exact completes_setT (beq_eq_decide (s.r n) (s.r m) ▸ rfl)
  case str => exact completes_setT (someByteEqual_eq (s.r n) (s.r m) ▸ rfl)
  case eqImm => exact completes_setT (beq_eq_decide (s.r 0) (i.signExtend 32) ▸ rfl)
  all_goals exact decode_eq_ok_iff.2 rfl

/-! ## Division steps -/

/-- A difference modulo 2^32 that is larger has borrowed (40_arithmetic.md R156). -/
theorem lt_sub_iff_borrow (a d : Word) : a.toNat < (a - d).toNat ↔ a.toNat < d.toNat := by bv_omega

/-- A sum modulo 2^32 that is smaller has carried. -/
theorem add_lt_iff_carry (a d : Word) : (a + d).toNat < a.toNat ↔ 2 ^ 32 ≤ a.toNat + d.toNat := by bv_omega

/-- One division step, with the borrow or carry of its exact difference or sum. -/
theorem divStep_eq (q m b : Bool) (rn d : Word) : divStep q m b rn d =
    (let t0 : Word := (rn <<< 1) ||| (if b then 1#32 else 0#32)
     let c : Bool := if q = m then decide (t0.toNat < d.toNat) else decide (2 ^ 32 ≤ t0.toNat + d.toNat)
     let q' : Bool := rn.msb ^^ c ^^ m
     (if q = m then t0 - d else t0 + d, q', q' == m)) := by
  by_cases h : q = m
  · simp only [divStep, h, beq_self_eq_true, if_true, lt_sub_iff_borrow]
  · simp only [divStep, h, beq_eq_false_iff_ne.2 h, Bool.false_eq_true, if_false, add_lt_iff_carry]

/-- Settles O11: the writes of Q, M and T, and the step that DIV1 makes. -/
theorem divisionSteps : Obligations.DivisionSteps := by
  refine fun s m n => ⟨?div0s, ?div0u, ?div1⟩
  case div0s =>
    rw [← withBit_QMT, withBit_T]
    exact ((((Updates.refl s).setQ _).setM _).setT _).completes rfl
  case div0u =>
    rw [← withBit_MQT, withBit_T]
    exact ((((Updates.refl s).setM false).setQ false).setT false).completes rfl
  case div1 =>
    intro t0 r c q
    have hx : divStep s.qBit s.mBit s.tBit (s.r n) (s.r m) = (r, q, q == s.mBit) := divStep_eq ..
    have hrun : execDiv1 m n s = done (((s.setR n r).setQ q).setT (q == s.mBit)) := by rw [execDiv1, hx]
    have hm : withBit s.sr 9 s.mBit = s.sr := withBit_getLsbD s.sr (by omega)
    rw [← withBit_MQT, hm, withBit_T]
    exact ((((Updates.refl s).setR n r).setQ q).setT _).completes hrun

/-! ## Products -/

/-- A value is its high part followed by its low part. -/
theorem extractLsb'_append_low (high low : Nat) (x : BitVec (high + low)) :
    x.extractLsb' low high ++ x.extractLsb' 0 low = x :=
  (BitVec.extractLsb'_append_extractLsb'_eq_extractLsb' (by omega)).trans BitVec.extractLsb'_eq_self

/-- MACH and MACL are the halves of the value written (10_state.md R44). -/
theorem setMac_halves (s : State) (x : BitVec 64) : (s.setMac x).mach ++ (s.setMac x).macl = x :=
  extractLsb'_append_low 32 32 x

/-- A product of two signed values fits in twice their width (R158, R168). -/
theorem toInt_ofInt_mul {w : Nat} (hw : 0 < w) (a b : BitVec w) :
    (BitVec.ofInt (w * 2) (a.toInt * b.toInt)).toInt = a.toInt * b.toInt := by
  have hlow : -(2 ^ (w * 2 - 2)) ≤ a.toInt * b.toInt := BitVec.le_toInt_mul_toInt
  have hhigh : a.toInt * b.toInt ≤ 2 ^ (w * 2 - 2) := BitVec.toInt_mul_toInt_le
  have hlt : (2 : Int) ^ (w * 2 - 2) < 2 ^ (w * 2 - 1) := pow_lt_pow_right₀ (by omega) (by omega)
  exact BitVec.toInt_ofInt_eq_self (by omega) (by omega) (by omega)

/-- So does a product of two unsigned values (R159, R169). -/
theorem toNat_ofNat_mul {w : Nat} (a b : BitVec w) :
    (BitVec.ofNat (w * 2) (a.toNat * b.toNat)).toNat = a.toNat * b.toNat := by
  refine (BitVec.toNat_ofNat ..).trans (Nat.mod_eq_of_lt ?_)
  rw [Nat.mul_two, Nat.pow_add]
  exact Nat.mul_lt_mul'' a.isLt b.isLt

/-- A write of MACH and MACL leaves nothing else changed. -/
theorem Updates.setMac (s : State) (x : BitVec 64) :
    Updates s s.r s.sr { s with mach := (s.setMac x).mach, macl := (s.setMac x).macl } (s.setMac x) :=
  (Updates.refl s).change ⟨rfl, rfl, rfl⟩ rfl rfl (by constructor <;> rfl) rfl rfl rfl rfl

/-- A write of MACL leaves nothing else changed. -/
theorem Updates.setMacl (s : State) (x : Word) : Updates s s.r s.sr { s with macl := x } (s.setMacl x) :=
  (Updates.refl s).change ⟨rfl, rfl, rfl⟩ rfl rfl (by constructor <;> rfl) rfl rfl rfl rfl

section

variable {s : State} {i : Instr}

/-- An instruction that writes MACH:MACL. -/
theorem completes_setMac {x : BitVec 64} {p : BitVec 64 → Prop} (h : exec i s = done (s.setMac x)) (hp : p x) :
    Completes i s (fun t => p (t.mach ++ t.macl) ∧ Leaves s s.r s.sr { s with mach := t.mach, macl := t.macl } t) := by
  refine completes_of_done h ⟨?_, ?_⟩
  · rwa [State.advance_mach, State.advance_macl, setMac_halves]
  · rw [State.advance_mach, State.advance_macl]
    exact (Updates.setMac s x).leaves

/-- An instruction that writes MACL. -/
theorem completes_setMacl {x : Word} {p : Word → Prop} (h : exec i s = done (s.setMacl x)) (hp : p x) :
    Completes i s (fun t => p t.macl ∧ Leaves s s.r s.sr { s with macl := t.macl } t) := by
  refine completes_of_done h ?_
  rw [State.advance_macl]
  exact ⟨hp, (Updates.setMacl s x).leaves⟩

end

/-- Settles O12: each form is one write of the MAC register, with a product that its width holds. -/
theorem multiplies : Obligations.Multiplies := by
  refine fun s m n => ⟨?dmulsL, ?dmuluL, ?mulL, ?mulsW, ?muluW⟩
  case dmulsL => exact completes_setMac (p := fun x => x.toInt = _) rfl (toInt_ofInt_mul (by omega) (s.r n) (s.r m))
  case dmuluL => exact completes_setMac (p := fun x => x.toNat = _) rfl (toNat_ofNat_mul (s.r n) (s.r m))
  case mulL => exact (Updates.setMacl s _).completes rfl
  case mulsW =>
    rw [← lowHalf_eq_setWidth, ← lowHalf_eq_setWidth]
    exact completes_setMacl (p := fun x => x.toInt = _) rfl (toInt_ofInt_mul (by omega) _ _)
  case muluW =>
    rw [← lowHalf_eq_setWidth, ← lowHalf_eq_setWidth]
    exact completes_setMacl (p := fun x => x.toNat = _) rfl (toNat_ofNat_mul _ _)

/-! ## Multiply and accumulate -/

section

variable {s t : State} {a : Word} {bs : List Byte}

/-- What can be loaded depends on memory, the address map and the mode. -/
theorem Loads.congr (h : Loads s a bs) (hmem : t.mem = s.mem) (hparams : t.params = s.params) (hsr : t.sr = s.sr) :
    Loads t a bs := by
  simpa only [Loads, State.mayAccess, State.md, State.readableAt, State.holds, hmem, hparams, hsr] using h

/-- An integer brought into a range is the nearest one of the range (R165, R166). -/
theorem saturate_eq (w : Nat) (x : Int) : saturate w x = max (-2 ^ w) (min (2 ^ w - 1) x) := by
  have hpos : (0 : Int) < 2 ^ w := by positivity
  unfold saturate
  split
  · omega
  · split <;> omega

/-- It is in the range. -/
theorem toInt_ofInt_saturate (w : Nat) (x : Int) : (BitVec.ofInt (w + 1) (saturate w x)).toInt = saturate w x := by
  have hpos : (0 : Int) < 2 ^ w := by positivity
  have hsat := saturate_eq w x
  refine BitVec.toInt_ofInt_eq_self (by omega) ?_ ?_ <;> rw [Nat.add_sub_cancel] <;> omega

/-- MAC.L with S = 0 adds the product modulo 2^64 (R165). -/
theorem macLong_of_clear (hS : s.sBit = false) (p : Int) : s.macLong p = s.setMac (macWrap s.mach s.macl p) := by
  simp [State.macLong, hS]

/-- MAC.L with S = 1 leaves the saturated sum in MACH[15:0]:MACL. -/
theorem macLong_sum (hS : s.sBit = true) (p : Int) :
    (s.macLong p).mach.setWidth 16 ++ (s.macLong p).macl = macLongSum s.mach s.macl p := by
  simp only [State.macLong, hS, if_true]
  rw [BitVec.setWidth_eq_extractLsb' (by omega), BitVec.extractLsb'_append_eq_right]
  exact extractLsb'_append_low 16 32 _

/-- And in MACH[31:16] what `MACL_SAT_HIGH` says. -/
theorem macLong_high (hS : s.sBit = true) (p : Int) :
    (s.macLong p).mach.extractLsb' 16 16 = macLongHigh s.params.maclSatHigh s.mach (macLongSum s.mach s.macl p) := by
  simp only [State.macLong, hS, if_true]
  exact BitVec.extractLsb'_append_eq_left

/-- MACH[15] is the sign of the sum. -/
theorem macLong_sign (hS : s.sBit = true) (p : Int) :
    (s.macLong p).mach.getLsbD 15 = (macLongSum s.mach s.macl p).msb := by
  rw [← macLong_sum hS p, BitVec.msb_append, if_neg (by omega), BitVec.msb_eq_getLsbD_last]
  simp

/-- MAC.W with S = 0 adds the product modulo 2^64 (R166). -/
theorem macWord_of_clear (hS : s.sBit = false) (p : Int) : s.macWord p = s.setMac (macWrap s.mach s.macl p) := by
  simp [State.macWord, hS]

/-- MAC.W with S = 1 leaves the saturated sum in MACL. -/
theorem macWord_macl (hS : s.sBit = true) (p : Int) :
    (s.macWord p).macl = BitVec.ofInt 32 (saturate 31 (s.macl.toInt + p)) := by
  simp only [State.macWord, hS, if_true]
  split <;> rfl

/-- And MACH as it was, but for bit 0 on an overflow. -/
theorem macWord_mach (hS : s.sBit = true) (p : Int) : (s.macWord p).mach = s.mach ∨
    (saturate 31 (s.macl.toInt + p) ≠ s.macl.toInt + p ∧ (s.macWord p).mach = s.mach ||| 0x00000001#32) := by
  simp only [State.macWord, hS, if_true]
  split
  next hover =>
    have hbit : ∀ b : BitVec 1, b = 0#1 ∨ b = 1#1 := by decide
    rcases hbit (Config.freeBit s.freeCount) with h | h
    · exact Or.inl (by simp [h])
    · exact Or.inr ⟨of_decide_eq_true hover, by simp [h]⟩
  next => exact Or.inl rfl

end

section

variable {s : State} {m n : Reg}

@[simp] theorem State.bump_sBit (s : State) (n : Reg) (size : Word) : (s.bump n size).sBit = s.sBit := by
  rw [State.sBit, State.bump_sr, State.sBit]

/-- The pointer of the second operand, after the first's is advanced (R165). -/
theorem bump_r (s : State) (m n : Reg) (size : Word) :
    (s.bump n size).r m = if n = m then s.r n + size else s.r m := by
  rw [State.bump, State.setR_r]
  simp only [@eq_comm Reg n m]

/-- Both pointers advanced. -/
def State.bumpBoth (s : State) (m n : Reg) (size : Word) : State := (s.bump n size).bump m size

/-- The general registers once both pointers are advanced. -/
def bumpedRegs (s : State) (m n : Reg) (size : Word) : Reg → Word :=
  if n = m then withReg s.r n (s.r n + size + size) else withReg (withReg s.r n (s.r n + size)) m (s.r m + size)

theorem Updates.bumpBoth (s : State) (m n : Reg) (size : Word) :
    Updates s (bumpedRegs s m n size) s.sr s (s.bumpBoth m n size) := by
  have h := ((Updates.refl s).setR n (s.r n + size)).setR m ((s.bump n size).r m + size)
  have hregs : withReg (withReg s.r n (s.r n + size)) m ((s.bump n size).r m + size) = bumpedRegs s m n size := by
    rw [bump_r, bumpedRegs]
    split
    · subst_vars
      funext i
      simp only [withReg]
      split <;> rfl
    · rfl
  exact hregs ▸ h

/-- MAC.L of two longwords of memory. -/
theorem execMacL_of_loads {vn vm : Word} (hn : Loads s (s.r n) (longBytes s vn))
    (hm : Loads s (if n = m then s.r n + 4#32 else s.r m) (longBytes s vm)) :
    execMacL m n s = done ((s.bumpBoth m n 4).macLong (vn.toInt * vm.toInt)) := by
  have hm' : Loads (s.bump n 4) ((s.bump n 4).r m) (longBytes (s.bump n 4) vm) := by
    rw [bump_r, longBytes, State.bump_params]
    exact hm.congr (by simp) (by simp) (by simp)
  simp only [execMacL, readLong_of_loads hn, bind, Except.bind, hostTaken_of_loads hn (State.bump_params ..),
    readLong_of_loads hm', pure, Except.pure, complete_ok, done_eq]
  rw [hostTaken_of_loads hm' (by simp), State.bumpBoth]

/-- MAC.W of two words of memory. -/
theorem execMacW_of_loads {vn vm : Half} (hn : Loads s (s.r n) (halfBytes s vn))
    (hm : Loads s (if n = m then s.r n + 2#32 else s.r m) (halfBytes s vm)) :
    execMacW m n s = done ((s.bumpBoth m n 2).macWord (vn.toInt * vm.toInt)) := by
  have hm' : Loads (s.bump n 2) ((s.bump n 2).r m) (halfBytes (s.bump n 2) vm) := by
    rw [bump_r, halfBytes, State.bump_params]
    exact hm.congr (by simp) (by simp) (by simp)
  simp only [execMacW, readHalf_ok.2 (Or.inl hn), bind, Except.bind, hostTaken_of_loads hn (State.bump_params ..),
    readHalf_ok.2 (Or.inl hm'), pure, Except.pure, complete_ok, done_eq]
  rw [hostTaken_of_loads hm' (by simp), State.bumpBoth]

/-- MAC.L's update, over a state whose special registers are those of `s`, writes MACH and MACL alone. -/
theorem Updates.macLong {u : State} {regs : Reg → Word} {sr : Word} (h : Updates s regs sr s u) (p : Int) :
    Updates s regs sr { s with mach := (u.macLong p).mach, macl := (u.macLong p).macl } (u.macLong p) := by
  refine h.change ⟨by simp, by simp, by simp⟩ (bankSel_congr (by simp)) (by simp [h.status]) ?_ (by simp) (by simp)
    (by simp) (by simp)
  obtain ⟨⟩ := h.rest
  constructor <;> simp [*]

/-- MAC.W's update draws a free value as well (log 12). -/
theorem Updates.macWord {u : State} {regs : Reg → Word} {sr : Word} (h : Updates s regs sr s u) (p : Int) :
    Updates s regs sr { s with
      mach := (u.macWord p).mach, macl := (u.macWord p).macl, freeCount := (u.macWord p).freeCount } (u.macWord p) := by
  refine h.change ⟨by simp, by simp, by simp⟩ (bankSel_congr (by simp)) (by simp [h.status]) ?_ (by simp) (by simp)
    (by simp) (by simp)
  obtain ⟨⟩ := h.rest
  constructor <;> simp [*]

@[simp] theorem State.bumpBoth_sBit (s : State) (m n : Reg) (size : Word) : (s.bumpBoth m n size).sBit = s.sBit := by
  simp [State.bumpBoth]

@[simp] theorem State.bumpBoth_mach (s : State) (m n : Reg) (size : Word) : (s.bumpBoth m n size).mach = s.mach := by
  simp [State.bumpBoth]

@[simp] theorem State.bumpBoth_macl (s : State) (m n : Reg) (size : Word) : (s.bumpBoth m n size).macl = s.macl := by
  simp [State.bumpBoth]

@[simp] theorem State.bumpBoth_params (s : State) (m n : Reg) (size : Word) :
    (s.bumpBoth m n size).params = s.params := by
  simp [State.bumpBoth]

end

/-- Settles O13: both operands are loaded and both pointers advanced; MACH:MACL get the sum, wrapped or saturated. -/
theorem macLong : Obligations.MacLong := by
  intro s m n vn vm hn hm
  have hup := (Updates.bumpBoth s m n 4).macLong (vn.toInt * vm.toInt)
  refine completes_of_done (execMacL_of_loads hn hm) ?_
  simp only [State.advance_mach, State.advance_macl]
  refine ⟨hup.leaves, fun hS => ?wrap, fun hS => ⟨?sum, fun hcfg => ?preserve, fun hcfg => ?signext⟩⟩
  all_goals replace hS := (s.bumpBoth_sBit m n 4).trans hS
  case wrap => rw [macLong_of_clear hS, setMac_halves, macWrap, State.bumpBoth_mach, State.bumpBoth_macl]
  case sum =>
    rw [macLong_sum hS, macLongSum, toInt_ofInt_saturate, saturate_eq, State.bumpBoth_mach, State.bumpBoth_macl,
      lowHalf_eq_setWidth]
  case preserve => rw [macLong_high hS, State.bumpBoth_params, hcfg, macLongHigh, State.bumpBoth_mach]
  case signext => rw [macLong_high hS, macLong_sign hS, State.bumpBoth_params, hcfg, macLongHigh]

/-- Settles O14: likewise, with the sum saturated in MACL alone and MACH[0] drawn on an overflow. -/
theorem macWord : Obligations.MacWord := by
  intro s m n vn vm hn hm
  have hup := (Updates.bumpBoth s m n 2).macWord (vn.toInt * vm.toInt)
  refine completes_of_done (execMacW_of_loads hn hm) ?_
  simp only [State.advance_mach, State.advance_macl, State.advance_freeCount]
  refine ⟨hup.leaves, fun hS => ?wrap, fun hS => ?saturate⟩
  all_goals replace hS := (s.bumpBoth_sBit m n 2).trans hS
  case wrap => rw [macWord_of_clear hS, setMac_halves, macWrap, State.bumpBoth_mach, State.bumpBoth_macl]
  case saturate =>
    have hmacl := macWord_macl hS (vn.toInt * vm.toInt)
    have hmach := macWord_mach hS (vn.toInt * vm.toInt)
    rw [State.bumpBoth_macl] at hmacl hmach
    rw [State.bumpBoth_mach] at hmach
    rw [hmacl, toInt_ofInt_saturate, ← saturate_eq]
    exact ⟨rfl, hmach⟩

end Sys2Proof.Machine

/-! PROOF. The logical instructions: what a body leaves that stores bytes, in the terms of claims (`Updates.leavesStored`),
the read-modify-write of a byte, then each statement. -/

namespace Sys2Proof.Machine

section

variable {s u v : State} {i : Instr} {regs : Reg → Word} {sr : Word} {a : Word} {bs : List Byte}

/-! ## What a body that stores leaves before the pc advances -/

/-- A store alone leaves every register. -/
theorem Updates.putAt (s : State) (a : Word) (bs : List Byte) : Updates (s.putAt a bs) s.r s.sr s (s.putAt a bs) where
  registers := Registers.of_banks (s := s) ⟨rfl, rfl, rfl⟩ rfl
  status := rfl
  rest := by constructor <;> rfl
  mem := rfl
  dirty := rfl
  pc := rfl
  pending := rfl

/-- What a body leaves after its store is, once the pc advances, what claims say of an instruction that stores. -/
theorem Updates.leavesStored (h : Updates (s.putAt a bs) regs sr v u) (hl : bs.length ≤ 2 ^ 32) :
    LeavesStored s regs sr v a bs u.advance where
  registers := h.leaves.registers
  status := h.leaves.status
  rest := h.leaves.rest
  memory k := (h.leaves.memory k).trans (StoredAt_putAt s a bs hl k)
  dirty b := h.leaves.dirty ▸ DirtiedAt_putAt s a bs b
  next := h.leaves.next

/-! ## A byte read, changed and stored (41_logical.md R180 (d), (e)) -/

/-- A read-modify-write of a byte completes with the new byte stored and what the instruction does after that. -/
theorem completes_updateByte {b : Byte} {f : Byte → Byte} {g : Byte → State → State}
    (hexec : exec i s = updateByte s a f g) (hl : Loads s a [b]) (hst : Storable s a 1)
    (hg : Updates (s.putAt a [f b]) regs sr v (g b (s.putAt a [f b]))) :
    Completes i s (LeavesStored s regs sr v a [f b]) :=
  completes_of_done (hexec.trans (updateByte_of_loads hl hst)) (hg.leavesStored (by simp))

/-- TST.B passes the checks of a load and of a store, and then writes T alone (R191). -/
theorem execTstB_of_loads {b c : BitVec 8} (hl : Loads s s.gbrIndexed [b]) (hst : Storable s s.gbrIndexed 1) :
    execTstB c s = done (s.setT (b &&& c == 0)) := by
  have hread : readByteForUpdate s s.gbrIndexed = .ok b := readByteForUpdate_ok.2 (.inl ⟨hl, hst⟩)
  have hhost : (s.setT (b &&& c == 0)).hostTaken s.gbrIndexed = s.setT (b &&& c == 0) := hostTaken_of_loads hl rfl
  rw [execTstB, hread, Except.map, hhost, complete]

end

/-- Settles O15: AND, OR, XOR and NOT are one write of a register each, TST one write of T. -/
theorem logicalRegister : Obligations.LogicalRegister := by
  refine fun s m n i => ⟨completes_setR rfl, completes_setR rfl, completes_setR rfl, completes_setR rfl,
    completes_setR rfl, completes_setR rfl, completes_setR rfl, ?tst, ?tstImm, ?_, ?_, ?_, ?_, ?_, ?_, ?_, ?_, ?_⟩
  case tst => exact completes_setT (beq_eq_decide (s.r n &&& s.r m) 0 ▸ rfl)
  case tstImm => exact completes_setT (beq_eq_decide (s.r 0 &&& i.setWidth 32) 0 ▸ rfl)
  all_goals exact decode_eq_ok_iff.2 rfl

/-- Settles O16: AND.B, OR.B and XOR.B are a store alone, TAS.B a store and a write of T, TST.B a write of T. -/
theorem logicalByte : Obligations.LogicalByte := by
  refine fun s n i b => ⟨fun hl hst => ⟨?andB, ?orB, ?xorB, ?tstB⟩, fun hl hst => ?tasB⟩
  case andB => exact completes_updateByte (f := (· &&& i)) rfl hl hst (Updates.putAt s _ _)
  case orB => exact completes_updateByte (f := (· ||| i)) rfl hl hst (Updates.putAt s _ _)
  case xorB => exact completes_updateByte (f := (· ^^^ i)) rfl hl hst (Updates.putAt s _ _)
  case tstB => exact beq_eq_decide (b &&& i) 0 ▸ completes_setT (execTstB_of_loads hl hst)
  case tasB =>
    exact completes_updateByte (f := (· ||| 0x80#8)) rfl hl hst (beq_eq_decide b 0 ▸ (Updates.putAt s _ _).setT (b == 0))

end Sys2Proof.Machine

/-! PROOF. Branches: the forms that link write PR and then branch as the others do, and what a slot instruction ends in is
read off the ways an instruction ends (`exec_ends`). -/

namespace Sys2Proof.Machine

/-! ## BSR, BSRF and JSR -/

section

variable {s : State} {i : Instr}

/-- The return address as claims write it (42_branch.md R213, R216). -/
theorem State.returnAddress_eq (s : State) :
    s.returnAddress = if is32 s (s.pc + 2#32) then s.pc + 6#32 else s.pc + 4#32 := by
  show s.pc + 4#32 + (if is32 s (s.pc + 2#32) then 2#32 else 0#32) = _
  split
  · exact BitVec.add_assoc s.pc 4#32 2#32
  · exact BitVec.add_zero (s.pc + 4#32)

/-- The word that `is_32bit` looks at in the slot is the one a fetch there gives (R216). -/
theorem is32_of_fetch {w : Half} {a : Word} (h : fetch { s with pc := a } = .ok w) :
    is32 s a = matchesAny s.params.is32 w :=
  have hword : wordAt s a = .ok w := fetch_wordAt h
  is32_of_wordAt hword

/-- A delayed branch that links completes with PR written, the slot instruction next and its target pending. -/
theorem completes_of_linkedBranch {target : Word} (h : exec i s = delayedBranch s.linked target) :
    Completes i s (fun t => SameButPc s.linked t ∧ t.pc = s.pc + 2#32 ∧ t.pending = some ⟨s.pc, target, false⟩) :=
  ⟨_, h, ⟨⟨rfl, rfl, rfl⟩, rfl, by constructor <;> rfl, fun _ => rfl, rfl⟩, rfl, rfl⟩

end

/-- Settles O18: off a delay slot each form is one delayed branch from the state with PR written. -/
theorem subroutineCalls : Obligations.SubroutineCalls := by
  intro s e n hp
  refine ⟨fun w => is32_of_fetch, ?_⟩
  rw [← s.returnAddress_eq]
  have slot (target : Word) : whenNotInSlot s (delayedBranch s.linked target) = delayedBranch s.linked target :=
    whenNotInSlot_of_none hp
  exact ⟨completes_of_linkedBranch (slot _), completes_of_linkedBranch (slot _), completes_of_linkedBranch (slot _)⟩

/-! ## The end of a delay slot -/

section

variable {wt ws : Bool} {s t : State} {p : Slot} {o : Outcome}

/-- In a delay slot an exception saves the address of the branch (60_exceptions.md R464). -/
theorem State.restartAddress_of_slot (hp : s.pending = some p) (e : Exc) : s.restartAddress e = p.branch := by
  simp only [State.restartAddress, hp]

/-- However an instruction in a delay slot ends, no branch is pending, and the pc is the branch's target or an
exception is entered: a slot instruction neither branches nor traps (R203, R453). -/
theorem Ends.slot (he : Ends wt ws s o) (hp : s.pending = some p) (ho : o = .next t) :
    t.pending = none ∧ (t.pc = p.target ∨ ∃ e, t = s.enterException e) := by
  have hslot : s.pending ≠ none := by simp [hp]
  rcases he t ho with ⟨e, hr⟩ | ⟨i, hnone, -⟩ | ⟨u, hk, rfl⟩ | ⟨a, hnone, -⟩ | ⟨a, pr, hnone, -⟩ | ⟨hnone, -⟩
  · obtain ⟨-, -, rfl⟩ := raise_next.1 hr
    exact ⟨rfl, Or.inr ⟨e, rfl⟩⟩
  · exact absurd hnone hslot
  · rw [State.advance_of_some (hk.pending.trans hp)]
    exact ⟨rfl, Or.inl rfl⟩
  all_goals exact absurd hnone hslot

end

/-- Settles O19: an instruction in a slot advances to the branch's target or enters an exception. -/
theorem slotThenTarget : Obligations.SlotThenTarget := by
  intro s t i p hp ht
  obtain ⟨hnone, htarget | ⟨e, rfl⟩⟩ := (exec_ends i s).slot hp ht
  · exact ⟨hnone, Or.inl htarget⟩
  · exact ⟨hnone, Or.inr ⟨e, rfl, State.restartAddress_of_slot hp e, rfl⟩⟩

end Sys2Proof.Machine

/-! PROOF. The system control instructions: a write of special registers and nothing else (`SpecialWrite`), by itself or
with its value popped, the entry of an exception in the terms of claims (`Entered.enterException`), then each statement. -/

namespace Sys2Proof.Machine

section

variable {s u : State} {i : Instr}

/-! ## Writes of special registers -/

/-- `u` is `s` but for special registers: what LDC and LDS leave before the pc advances (43_system_control.md R230). -/
structure SpecialWrite (s u : State) : Prop where
  bank0 : u.bank0 = s.bank0
  bank1 : u.bank1 = s.bank1
  high : u.high = s.high
  sr : u.sr = s.sr
  mem : u.mem = s.mem
  dirty : u.dirtyCode = s.dirtyCode
  pc : u.pc = s.pc
  pending : u.pending = s.pending
  params : u.params = s.params

theorem SpecialWrite.updates (h : SpecialWrite s u) : Updates s s.r s.sr u u :=
  (Updates.refl s).change ⟨h.bank0, h.bank1, h.high⟩ (bankSel_congr h.sr) h.sr (SameRest.refl u) h.mem h.dirty h.pc
    h.pending

/-- LDC and LDS: special registers get their values, and nothing else changes. -/
theorem completes_special (hexec : exec i s = done u) (h : SpecialWrite s u) : Completes i s (Leaves s s.r s.sr u) :=
  h.updates.completes hexec

/-- LDC.L and LDS.L: special registers get their values from the longword popped. The pointer is the old Rm + 4, for no
special register is a general one. -/
theorem completes_pop {m : Reg} {v : Word} {k : Word → State} (hl : Loads s (s.r m) (longBytes s v))
    (hexec : exec i s = popLong s m k) (hu : k v = u) (h : SpecialWrite s u) :
    Completes i s (Leaves s (withReg s.r m (s.r m + 4#32)) s.sr u) := by
  subst hu
  exact (h.updates.setR m (s.r m + 4)).completes (hexec.trans (popLong_of_loads hl h.params))

/-- STC.L and STS.L: a longword is pushed, and nothing else changes. -/
theorem completes_push {n : Reg} {w : Word} (hst : Storable s (s.r n - 4#32) 4) (hexec : exec i s = pushLong s n w) :
    Completes i s
      (LeavesStored s (withReg s.r n (s.r n - 4#32)) s.sr s (s.r n - 4#32) (longBytes s w)) :=
  completes_of_done (hexec.trans (pushLong_of_storable w hst)) (LeavesStored.push s n w)

/-! ## S and T written, in the terms of claims -/

theorem srT_false (w : Word) : srT w false = w &&& 0xFFFFFFFE#32 := BitVec.or_zero

theorem srT_true (w : Word) : srT w true = w ||| 0x00000001#32 := (withBit_T w true).symm

theorem withBit_S_false (w : Word) : withBit w 1 false = w &&& 0xFFFFFFFD#32 := rfl

theorem withBit_S_true (w : Word) : withBit w 1 true = w ||| 0x00000002#32 := rfl

theorem Updates.setS (s : State) (b : Bool) : Updates s s.r (withBit s.sr 1 b) s (s.setS b) :=
  (Updates.refl s).change ⟨rfl, rfl, rfl⟩ (s.setS_bankSel b) rfl (by constructor <;> rfl) rfl rfl rfl rfl

/-! ## The entry of an exception -/

/-- The entry of an exception leaves what claims say of one: the sequence of R451 with the exception's row of
`EXC_TABLE`. -/
theorem Entered.enterException (s : State) (e : Exc) :
    Entered s (excEntry s.params.excTable e).code (s.restartAddress e) (excEntry s.params.excTable e).offset
      (s.enterException e) where
  ssr := rfl
  spc := rfl
  sgr := rfl
  sr := rfl
  expevt := rfl
  ldst := rfl
  asleep := rfl
  pc := rfl
  pending := rfl
  banks := ⟨rfl, rfl, rfl⟩
  rest := by constructor <;> rfl
  memory := SameMemory.of_mem rfl
  dirty := rfl

/-- Off a delay slot and with BL = 0, raising an exception enters it (60_exceptions.md R451). -/
theorem raise_of_unblocked (hp : s.pending = none) (hbl : s.bl = false) (e : Exc) :
    raise e s = .next (s.enterException e) :=
  raise_next.2 ⟨by rw [State.inRteSlot, hp], hbl, rfl⟩

/-- Off a delay slot TRAPA saves the address of the next instruction (R466). -/
theorem State.restartAddress_trap (hp : s.pending = none) : s.restartAddress .unconditionalTrap = s.pc + 2 := by
  rw [State.restartAddress, hp]

/-- Off a delay slot and with BL = 0, an instruction that raises a trap from `u` completes with its entry. -/
theorem completes_trap (hp : u.pending = none) (hbl : u.bl = false) (hexec : exec i s = raise .unconditionalTrap u) :
    Completes i s (Entered u u.params.excTable.unconditionalTrap.code (u.pc + 2)
      u.params.excTable.unconditionalTrap.offset) := by
  have hentered := Entered.enterException u .unconditionalTrap
  rw [State.restartAddress_trap hp] at hentered
  exact ⟨_, hexec.trans (raise_of_unblocked hp hbl _), hentered⟩

/-- The immediate shifted up by two bits is four times it (R280). -/
theorem traValue_eq (i : BitVec 8) : (zext i <<< 2 : Word) = 4#32 * i.setWidth 32 := by
  rw [BitVec.shiftLeft_eq_mul_twoPow, BitVec.mul_comm]; rfl

end

/-- Settles O20: each form is one write of SR, of MACH and MACL, or of nothing. -/
theorem flagInstructions : Obligations.FlagInstructions := by
  refine fun s => ⟨completes_special rfl (by constructor <;> rfl), ?clrs, ?sets, ?clrt, ?sett,
    (Updates.refl s).completes rfl, ?_, ?_, ?_, ?_, ?_, ?_⟩
  case clrs => exact withBit_S_false s.sr ▸ (Updates.setS s false).completes rfl
  case sets => exact withBit_S_true s.sr ▸ (Updates.setS s true).completes rfl
  case clrt => exact srT_false s.sr ▸ completes_setT rfl
  case sett => exact srT_true s.sr ▸ completes_setT rfl
  all_goals exact decode_eq_ok_iff.2 rfl

/-- Settles O21: once its mode check passes, each form is one write of special registers. -/
theorem specialRegisterLoads : Obligations.SpecialRegisterLoads := by
  intro s m
  refine ⟨?_, ?_, ?_, ?_, fun hm => ?privileged, fun hd => ?dsp⟩
  case privileged =>
    have run (o : Outcome) : whenPrivileged s o = o := whenPrivileged_of_md hm
    refine ⟨?_, ?_, ?_, ?_, ?_⟩
    all_goals exact completes_special (run _) (by constructor <;> rfl)
  case dsp =>
    have run (o : Outcome) : whenDsp s o = o := whenDsp_of_dsp hd
    refine ⟨?_, ?_, ?_, ?_, ?_, ?_, ?_, ?_, ?_⟩
    all_goals exact completes_special (run _) (by constructor <;> rfl)
  all_goals exact completes_special rfl (by constructor <;> rfl)

/-- Settles O22: once its mode check passes, each form is one pop into special registers. -/
theorem specialRegisterPops : Obligations.SpecialRegisterPops := by
  intro s m v hl
  refine ⟨?_, ?_, ?_, ?_, fun hm => ?privileged, fun hd => ?dsp⟩
  case privileged =>
    have run (o : Outcome) : whenPrivileged s o = o := whenPrivileged_of_md hm
    refine ⟨?_, ?_, ?_, ?_, ?_⟩
    all_goals exact completes_pop hl (run _) rfl (by constructor <;> rfl)
  case dsp =>
    have run (o : Outcome) : whenDsp s o = o := whenDsp_of_dsp hd
    refine ⟨?_, ?_, ?_, ?_, ?_, ?_, ?_, ?_, ?_⟩
    all_goals exact completes_pop hl (run _) rfl (by constructor <;> rfl)
  all_goals exact completes_pop hl rfl rfl (by constructor <;> rfl)

/-- Settles O23: once its mode check passes, each form is one write of a general register. -/
theorem specialRegisterStores : Obligations.SpecialRegisterStores := by
  intro s n
  refine ⟨completes_setR rfl, completes_setR rfl, completes_setR rfl, completes_setR rfl, fun hm => ?privileged,
    fun hd => ?dsp⟩
  case privileged =>
    have run (o : Outcome) : whenPrivileged s o = o := whenPrivileged_of_md hm
    refine ⟨?_, ?_, ?_, ?_, ?_⟩
    all_goals exact completes_setR (run _)
  case dsp =>
    have run (o : Outcome) : whenDsp s o = o := whenDsp_of_dsp hd
    refine ⟨?_, ?_, ?_, ?_, ?_, ?_, ?_, ?_, ?_⟩
    all_goals exact completes_setR (run _)

/-- Settles O24: once its mode check passes, each form is one push. -/
theorem specialRegisterPushes : Obligations.SpecialRegisterPushes := by
  intro s n hst
  refine ⟨completes_push hst rfl, completes_push hst rfl, completes_push hst rfl, completes_push hst rfl,
    fun hm => ?privileged, fun hd => ?dsp⟩
  case privileged =>
    have run (o : Outcome) : whenPrivileged s o = o := whenPrivileged_of_md hm
    refine ⟨?_, ?_, ?_, ?_, ?_⟩
    all_goals exact completes_push hst (run _)
  case dsp =>
    have run (o : Outcome) : whenDsp s o = o := whenDsp_of_dsp hd
    refine ⟨?_, ?_, ?_, ?_, ?_, ?_, ?_, ?_, ?_⟩
    all_goals exact completes_push hst (run _)

/-- Settles O28: off a delay slot TRAPA is the entry of its trap, from the state with TRA written. -/
theorem trapA : Obligations.TrapA := by
  refine ⟨fun s i hp hbl => ?_, rfl, rfl⟩
  rw [← traValue_eq]
  exact completes_trap hp hbl (whenNotInSlot_of_none hp)

/-- Settles O29: off a delay slot and in privileged mode, RTE is one write of SR, the pc and the pending branch. -/
theorem returnFromException_completes : Obligations.ReturnFromException := by
  intro s hm hp
  have hexec : exec .rte s = returnFromException s := (whenNotInSlot_of_none hp).trans (whenPrivileged_of_md hm)
  exact ⟨_, hexec, rfl, rfl, rfl, ⟨rfl, rfl, rfl⟩, by constructor <;> rfl, SameMemory.of_mem rfl, rfl⟩

end Sys2Proof.Machine

/-! PROOF. The moves: a load and a store with what the instruction does to registers, in the terms of claims
(`completes_loadByte`, `completes_storeByte` and so on), the fields that SWAP, XTRCT and MOVT move as masks and shifts,
then each statement. -/

namespace Sys2Proof.Machine

section

variable {s u v : State} {i : Instr} {regs : Reg → Word} {sr : Word} {a : Word}

/-! ## Loads -/

/-- A load of a byte completes with what the instruction makes of it (44_data_transfer.md R300). -/
theorem completes_loadByte {b : Byte} {k : Byte → State} (hl : Loads s a [b]) (hexec : exec i s = loadByte s a k)
    (hk : Updates s regs sr s (k b)) : Completes i s (Leaves s regs sr s) :=
  hk.completes (hexec.trans (loadByte_of_loads hl hk.rest.params))

theorem completes_loadHalf {h : Half} {k : Half → State} (hl : Loads s a (halfBytes s h))
    (hexec : exec i s = loadHalf s a k) (hk : Updates s regs sr s (k h)) : Completes i s (Leaves s regs sr s) :=
  hk.completes (hexec.trans (loadHalf_of_loads hl hk.rest.params))

theorem completes_loadLong {w : Word} {k : Word → State} (hl : Loads s a (longBytes s w))
    (hexec : exec i s = loadLong s a k) (hk : Updates s regs sr s (k w)) : Completes i s (Leaves s regs sr s) :=
  hk.completes (hexec.trans (loadLong_of_loads hl hk.rest.params))

/-- The update of a load through `@Rm+` (R311): with n = m the loaded value stands alone. -/
theorem Updates.loadInc (s : State) (m n : Reg) (size w : Word) :
    Updates s (if n = m then withReg s.r n w else withReg (withReg s.r n w) m (s.r m + size)) s.sr s
      (s.loadInc m n size w) := by
  unfold State.loadInc
  split
  · exact (Updates.refl s).setR n w
  · exact ((Updates.refl s).setR n w).setR m _

/-! ## Stores -/

/-- A store of a byte completes with it stored and what the instruction does to registers after that (R300). -/
theorem completes_storeByte {b : Byte} {k : State → State} (hst : Storable s a 1) (hexec : exec i s = storeByte s a b k)
    (hk : Updates (s.putAt a [b]) regs sr v (k (s.putAt a [b]))) : Completes i s (LeavesStored s regs sr v a [b]) := by
  rw [storeByte, writeByte_ok.2 (.inl ⟨hst, rfl⟩)] at hexec
  exact completes_of_done hexec (hk.leavesStored (by simp))

theorem completes_storeHalf {h : Half} {k : State → State} (hst : Storable s a 2) (hexec : exec i s = storeHalf s a h k)
    (hk : Updates (s.putAt a (halfBytes s h)) regs sr v (k (s.putAt a (halfBytes s h)))) :
    Completes i s (LeavesStored s regs sr v a (halfBytes s h)) := by
  rw [storeHalf, writeHalf_ok.2 (.inl ⟨hst, rfl⟩)] at hexec
  exact completes_of_done hexec (hk.leavesStored (by simp [halfBytes]))

theorem completes_storeLong {w : Word} {k : State → State} (hst : Storable s a 4) (hexec : exec i s = storeLong s a w k)
    (hk : Updates (s.putAt a (longBytes s w)) regs sr v (k (s.putAt a (longBytes s w)))) :
    Completes i s (LeavesStored s regs sr v a (longBytes s w)) := by
  rw [storeLong, writeLong_of_storable hst] at hexec
  exact completes_of_done hexec (hk.leavesStored (by simp [longBytes]))

end

/-! ## Fields moved within a register -/

/-- T as a longword (R336). -/
theorem ite_tBit_eq (s : State) : (if s.tBit then 1#32 else 0#32) = s.sr &&& 0x00000001#32 := by
  apply BitVec.eq_of_getLsbD_eq
  intro k hk
  have hone : (1#32).getLsbD k = decide (k = 0) := by simp [hk]
  rw [BitVec.getLsbD_and, hone]
  by_cases h0 : k = 0
  · subst h0; unfold State.tBit; cases s.sr.getLsbD 0 <;> rfl
  · split <;> simp [h0]

/-- The low half of one longword above the high half of another (R339). -/
theorem halves_eq_shifts (x y : Word) :
    x.extractLsb' 0 16 ++ y.extractLsb' 16 16 = (x <<< 16) ||| (y >>> 16) := by
  apply BitVec.eq_of_getLsbD_eq
  intro k hk
  rw [BitVec.getLsbD_append, BitVec.getLsbD_or, BitVec.getLsbD_shiftLeft, BitVec.getLsbD_ushiftRight]
  by_cases hlow : k < 16
  · simp [hlow, hk]
  · simp [hlow, hk, show k - 16 < 16 by omega, BitVec.getLsbD_of_ge y (16 + k) (by omega)]

/-- A shift by 16 leaves nothing outside the half it fills. -/
theorem shiftLeft_and_highHalf (x : Word) : (x <<< 16) &&& 0xFFFF0000#32 = x <<< 16 := by
  have hmask : ∀ k < 32, (0xFFFF0000#32).getLsbD k = decide (16 ≤ k) := by decide
  apply BitVec.eq_of_getLsbD_eq
  intro k hk
  rw [BitVec.getLsbD_and, hmask k hk, BitVec.getLsbD_shiftLeft]
  by_cases hlow : k < 16
  · simp [hlow]
  · simp [hlow, Nat.le_of_not_lt hlow]

theorem ushiftRight_and_lowHalf (x : Word) : (x >>> 16) &&& 0x0000FFFF#32 = x >>> 16 := by
  have hmask : ∀ k < 32, (0x0000FFFF#32).getLsbD k = decide (k < 16) := by decide
  apply BitVec.eq_of_getLsbD_eq
  intro k hk
  rw [BitVec.getLsbD_and, hmask k hk, BitVec.getLsbD_ushiftRight]
  by_cases hlow : k < 16
  · simp [hlow]
  · simp [hlow, BitVec.getLsbD_of_ge x (16 + k) (by omega)]

/-- The two low bytes exchanged (R337). -/
theorem swapBytes_eq_masks (x : Word) :
    x.extractLsb' 16 16 ++ x.extractLsb' 0 8 ++ x.extractLsb' 8 8 =
      (x &&& 0xFFFF0000#32) ||| ((x &&& 0x000000FF#32) <<< 8) ||| ((x &&& 0x0000FF00#32) >>> 8) := by
  have hhigh : ∀ k < 32, (0xFFFF0000#32).getLsbD k = decide (16 ≤ k) := by decide
  have hbyte0 : ∀ k < 32, (0x000000FF#32).getLsbD k = decide (k < 8) := by decide
  have hbyte1 : ∀ k < 32, (0x0000FF00#32).getLsbD (8 + k) = decide (k < 8) := by decide
  apply BitVec.eq_of_getLsbD_eq
  intro k hk
  rw [BitVec.getLsbD_append, BitVec.getLsbD_append, BitVec.getLsbD_or, BitVec.getLsbD_or, BitVec.getLsbD_and,
    BitVec.getLsbD_shiftLeft, BitVec.getLsbD_and, BitVec.getLsbD_ushiftRight, BitVec.getLsbD_and, hhigh k hk,
    hbyte0 (k - 8) (by omega), hbyte1 k hk]
  by_cases h8 : k < 8
  · simp [h8, show ¬ 16 ≤ k by omega]
  · by_cases h16 : k < 16
    · simp [h8, hk, show k - 8 < 8 by omega, show ¬ 16 ≤ k by omega]
    · simp [h8, show ¬ k - 8 < 8 by omega, show 16 ≤ k by omega, show k - 8 - 8 < 16 by omega,
        show 16 + (k - 8 - 8) = k by omega]

/-- The address LDRE and LDRS make, as claims write it (47_dsp_control.md R402; log 27). -/
theorem State.repeatAddress_eq (s : State) (d : BitVec 8) :
    s.repeatAddress d = s.pc + (if s.params.ldrePcBias = .four then 4#32 else 0#32) + 2#32 * d.signExtend 32 := by
  unfold State.repeatAddress
  cases s.params.ldrePcBias <;> rfl

/-- Settles O30: each form is one write of a register. -/
theorem registerMoves : Obligations.RegisterMoves := by
  refine fun s m n i => ⟨completes_setR rfl, completes_setR rfl, ?movt, ?swapB, ?swapW, ?xtrct, ?_, ?_, ?_, ?_, ?_, ?_⟩
  case movt => exact ite_tBit_eq s ▸ completes_setR rfl
  case swapB => exact swapBytes_eq_masks (s.r m) ▸ completes_setR rfl
  case swapW => exact halves_eq_shifts (s.r m) (s.r m) ▸ completes_setR rfl
  case xtrct =>
    rw [shiftLeft_and_highHalf, ushiftRight_and_lowHalf, ← halves_eq_shifts]
    exact completes_setR rfl
  all_goals exact decode_eq_ok_iff.2 rfl

/-- Settles O31: each form is one load and one write of a register. -/
theorem loadsOfMemory : Obligations.LoadsOfMemory := by
  refine fun s m n e d => ⟨fun v => ?byte, fun v => ?half, fun v => ?long⟩
  case byte =>
    rw [← gbrDisp_one, ← regDisp_one]
    refine ⟨?_, ?_, ?_, ?_⟩
    all_goals exact fun hl => completes_loadByte hl rfl ((Updates.refl s).setR _ _)
  case half =>
    refine ⟨?_, ?_, ?_, ?_⟩
    all_goals exact fun hl => completes_loadHalf hl rfl ((Updates.refl s).setR _ _)
  case long =>
    refine ⟨?_, ?_, ?_, ?_⟩
    all_goals exact fun hl => completes_loadLong hl rfl ((Updates.refl s).setR _ _)

/-- Settles O32: off a delay slot the loads and MOVA are one write of a register, and with SR.DSP set LDRE and LDRS are
one write of RE or RS. -/
theorem pcRelative : Obligations.PcRelative := by
  intro s n e hp
  have run (o : Outcome) : whenNotInSlot s o = o := whenNotInSlot_of_none hp
  refine ⟨fun v hl => ?movW, fun v hl => ?movL, completes_setR (run _), fun hd => ?dsp⟩
  case movW => exact completes_loadHalf hl (run _) ((Updates.refl s).setR _ _)
  case movL => exact completes_loadLong hl (run _) ((Updates.refl s).setR _ _)
  case dsp =>
    simp only [← s.repeatAddress_eq e]
    refine ⟨?_, ?_⟩
    all_goals exact completes_special ((run _).trans (whenDsp_of_dsp hd)) (by constructor <;> rfl)

/-- Settles O33: each form is one load and the update of both registers. -/
theorem loadsPostIncrement : Obligations.LoadsPostIncrement := by
  refine fun s m n => ⟨fun v hl => ?byte, fun v hl => ?half, fun v hl => ?long⟩
  case byte => exact completes_loadByte hl rfl (Updates.loadInc s m n 1 _)
  case half => exact completes_loadHalf hl rfl (Updates.loadInc s m n 2 _)
  case long => exact completes_loadLong hl rfl (Updates.loadInc s m n 4 v)

/-- Settles O34: each form is one store, of the low byte, the low word or the whole of a register, and leaves every
register. -/
theorem stores : Obligations.Stores := by
  intro s m n e d
  rw [← gbrDisp_one, ← regDisp_one]
  simp only [← lowByte_eq_setWidth, ← lowHalf_eq_setWidth]
  refine ⟨?byte, ?byteIdx, ?byteGbr, ?byteDisp, ?half, ?halfIdx, ?halfGbr, ?halfDisp, ?long, ?longIdx, ?longGbr,
    ?longDisp⟩
  case byte | byteIdx | byteGbr | byteDisp => exact fun hst => completes_storeByte hst rfl (Updates.putAt s _ _)
  case half | halfIdx | halfGbr | halfDisp => exact fun hst => completes_storeHalf hst rfl (Updates.putAt s _ _)
  case long | longIdx | longGbr | longDisp => exact fun hst => completes_storeLong hst rfl (Updates.putAt s _ _)

/-- Settles O35: each form is one store and then one write of the pointer. -/
theorem storesPreDecrement : Obligations.StoresPreDecrement := by
  intro s m n
  rw [← lowByte_eq_setWidth, ← lowHalf_eq_setWidth]
  refine ⟨fun hst => ?byte, fun hst => ?half, fun hst => ?long⟩
  case byte => exact completes_storeByte hst rfl ((Updates.putAt s _ _).setR n _)
  case half => exact completes_storeHalf hst rfl ((Updates.putAt s _ _).setR n _)
  case long => exact completes_storeLong hst rfl ((Updates.putAt s _ _).setR n _)

end Sys2Proof.Machine

/-! PROOF. Cache and synchronisation: the blocks of 32 bytes as quotients, what the check of a block operation lets pass,
what a block that loses its contents holds (`BlockLost`), the pair of MOVLI.L and MOVCO.L, then each statement. -/

namespace Sys2Proof.Machine

/-! ## Blocks (45_cache_sync.md R350) -/

section

variable {s : State} {a k : Word}

theorem toNat_blockOf (a : Word) : (blockOf a).toNat = a.toNat / 32 * 32 := by
  obtain ⟨hmod, hlt⟩ := blockOf_mod a
  have hoff := sub_blockOf_lt a
  rw [BitVec.toNat_sub] at hoff
  omega

theorem blockOf_eq_iff : blockOf k = blockOf a ↔ k.toNat / 32 = a.toNat / 32 := by
  rw [← BitVec.toNat_inj, toNat_blockOf, toNat_blockOf]
  omega

/-- An address is in a block exactly where it is less than 32 bytes from the block's start. -/
theorem sub_blockOf_lt_iff : (k - blockOf a).toNat < 32 ↔ blockOf k = blockOf a := by
  rw [blockOf_eq_iff, BitVec.toNat_sub, toNat_blockOf]
  omega

/-- The bytes of the longword at `a`, among those of its block (R352). -/
theorem inLongOf_sub_blockOf (h : blockOf k = blockOf a) :
    inLongOf a (k - blockOf a).toNat = true ↔ (k - a).toNat < 4 := by
  rw [blockOf_eq_iff] at h
  rw [inLongOf, Bool.and_eq_true, decide_eq_true_iff, decide_eq_true_iff, BitVec.toNat_sub, BitVec.toNat_sub,
    toNat_blockOf]
  omega

/-- An aligned longword is within one block. -/
theorem blockOf_of_sub_lt_four (ha : a.toNat % 4 = 0) (h : (k - a).toNat < 4) : blockOf k = blockOf a := by
  rw [BitVec.toNat_sub] at h
  rw [blockOf_eq_iff]
  omega

/-! ## The check of a block operation -/

/-- A block operation may go on where the mode allows the address and its region does; no alignment is asked (R350 (e)). -/
theorem checkBlock_ok {store : Bool} {e : Exc} {x : Unit} : checkBlock s a store e = .ok x ↔
    s.mayAccess a = true ∧ regionKind s.params.memMap a ≠ none ∧
      (store = true → regionKind s.params.memMap a ≠ some .rom) := by
  simp only [checkBlock, access_bind_ok, checkPrivilege_ok, exists_const]
  refine and_congr_right fun _ => ?_
  rcases regionKind s.params.memMap a with _ | _ | _ | _ <;> cases store <;> simp

/-- A block operation that passes its check is done with its change of the state. -/
theorem complete_checkBlock {u : State} {store : Bool} {e : Exc} (hm : s.mayAccess a = true)
    (hr : regionKind s.params.memMap a ≠ none) (hs : store = true → regionKind s.params.memMap a ≠ some .rom) :
    complete s (do checkBlock s a store e; pure u) = done u := by
  rw [access_bind_of_ok (v := ()) (checkBlock_ok.2 ⟨hm, hr, hs⟩)]
  rfl

/-! ## A block that loses its contents (R352, R357) -/

/-- A byte after a block is lost: a free value in the block where it is not kept, and else what it was. -/
theorem holds_loseBlock (s : State) (a k : Word) (keep : Nat → Bool) : (s.loseBlock a keep).holds k =
    if blockOf k = blockOf a ∧ keep (k - blockOf a).toNat = false
    then some (Config.freeByte (s.freeCount + (k - blockOf a).toNat)) else s.holds k := by
  rw [State.holds, State.loseBlock, assocGet_loseBytes _ _ _ _ _ _ (Nat.le_refl 32)]
  simp only [sub_blockOf_lt_iff, State.holds]

/-- A register mapped outside the block keeps its value. -/
theorem loseRegister_of_ne {keep : Nat → Bool} {n : Nat} {b c mask v : Word} (h : b ≠ blockOf c) :
    loseRegister keep n b c mask v = v := if_neg fun ⟨hb, _⟩ => h hb.symm

/-- No writable register is mapped outside the block H'FF000000 (20_memory.md R84). -/
theorem loseBlock_mapped {keep : Nat → Bool} (h : blockOf a ≠ 0xFF000000#32) :
    (s.loseBlock a keep).pteh = s.pteh ∧ (s.loseBlock a keep).ptel = s.ptel ∧
      (s.loseBlock a keep).mmucr = s.mmucr :=
  ⟨loseRegister_of_ne h, loseRegister_of_ne h, loseRegister_of_ne h⟩

/-- `t` follows an instruction at `s` that loses the contents of the block of `a`, whatever its bytes and the registers
mapped in it then hold. -/
def BlockLost (s : State) (a : Word) (t : State) : Prop :=
  Registers s s.r t ∧ t.sr = s.sr ∧
    SameRest { s with freeCount := t.freeCount, pteh := t.pteh, ptel := t.ptel, mmucr := t.mmucr } t ∧
    (blockOf a ≠ 0xFF000000#32 → t.pteh = s.pteh ∧ t.ptel = s.ptel ∧ t.mmucr = s.mmucr) ∧
    DirtiedAt s t a ∧ Advanced s t ∧
    ∀ k : Word, (blockOf k ≠ blockOf a → t.holds k = s.holds k) ∧ (blockOf k = blockOf a → t.holds k ≠ none)

/-- The block of `a` is lost after a store of `bs` there, where the store is within the block and no byte but those
stored is kept. -/
theorem BlockLost.of_putAt {bs : List Byte} {keep : Nat → Bool} (hl : bs.length ≤ 2 ^ 32)
    (hin : ∀ k : Word, (k - a).toNat < bs.length → blockOf k = blockOf a)
    (hkeep : ∀ k : Word, blockOf k = blockOf a → keep (k - blockOf a).toNat = true → (k - a).toNat < bs.length) :
    BlockLost s a ((s.putAt a bs).loseBlock a keep).advance := by
  refine ⟨(Registers.of_banks ⟨rfl, rfl, rfl⟩ rfl).advance, by simp, by constructor <;> simp, fun hb => ?mapped, ?dirty,
    Advanced.advance rfl rfl, fun k => ?bytes⟩
  case mapped => simpa using loseBlock_mapped (s := s.putAt a bs) (keep := keep) hb
  case dirty => simpa [DirtiedAt] using DirtiedAt_putAt s a bs
  case bytes =>
    rw [State.holds, State.advance_mem, ← State.holds, holds_loseBlock, StoredAt_putAt s a bs hl k]
    refine ⟨fun hne => ?outside, fun heq => ?inside⟩
    case outside => rw [if_neg fun ⟨hb, _⟩ => hne hb, if_neg fun hk => hne (hin k hk)]
    case inside =>
      cases hk : keep (k - blockOf a).toNat with
      | true =>
        have hlt := hkeep k heq hk
        rw [if_neg fun ⟨_, h⟩ => Bool.noConfusion h, if_pos hlt, List.getElem?_eq_getElem hlt]
        exact Option.some_ne_none _
      | false =>
        rw [if_pos ⟨heq, rfl⟩]
        exact Option.some_ne_none _

/-- A byte that is stored and kept holds what was stored. -/
theorem holds_loseBlock_of_keep {bs : List Byte} {keep : Nat → Bool} (hl : bs.length ≤ 2 ^ 32)
    (hk : (k - a).toNat < bs.length) (hkeep : keep (k - blockOf a).toNat = true) :
    ((s.putAt a bs).loseBlock a keep).advance.holds k = bs[(k - a).toNat]? := by
  rw [State.holds, State.advance_mem, ← State.holds, holds_loseBlock, hkeep,
    if_neg fun ⟨_, h⟩ => Bool.noConfusion h, StoredAt_putAt s a bs hl k, if_pos hk]

/-- MOVCA.L of a longword that can be stored is its store, and then the loss of the rest of the block (R352). -/
theorem execMovcaL_of_storable {n : Reg} (hst : Storable s (s.r n) 4) : execMovcaL n s =
    done ((s.putAt (s.r n) (longBytes s (s.r 0))).loseBlock (s.r n) (inLongOf (s.r n))) := by
  rw [execMovcaL, storeLong, writeLong_of_storable hst]
  rfl

/-- OCBI is the loss of the whole block, with nothing stored (R357). -/
theorem BlockLost.of_ocbi (s : State) (a : Word) :
    BlockLost s a ((s.loseBlock a fun _ => false).markDirty a).advance := by
  have hput : (s.loseBlock a fun _ => false).markDirty a = (s.putAt a []).loseBlock a fun _ => false := by
    simp only [State.loseBlock, State.markDirty, State.putAt, putBytes]
  rw [hput]
  exact BlockLost.of_putAt (Nat.zero_le _) (fun _ h => absurd h (Nat.not_lt_zero _)) fun _ _ h => Bool.noConfusion h

end

/-- Settles O38: MOVCA.L is a store and the loss of the rest of its block, OCBI the loss of all of it. -/
theorem blocksLost : Obligations.BlocksLost := by
  refine fun s n => ⟨fun hst => ?movca, fun hm hr => ?ocbi⟩
  case movca =>
    have ⟨halign, _⟩ := hst
    have hin (k : Word) (hk : (k - s.r n).toNat < 4) : blockOf k = blockOf (s.r n) := blockOf_of_sub_lt_four halign hk
    refine completes_of_done (execMovcaL_of_storable hst) ⟨?lost, fun k hk => ?stored⟩
    case lost => exact BlockLost.of_putAt (by simp [longBytes]) hin fun k hb => (inLongOf_sub_blockOf hb).1
    case stored =>
      have hoff : (s.r n + BitVec.ofNat 32 k - s.r n).toNat = k := by
        rw [BitVec.add_comm, BitVec.add_sub_cancel, BitVec.toNat_ofNat]
        omega
      have hlt : (s.r n + BitVec.ofNat 32 k - s.r n).toNat < 4 := by rwa [hoff]
      have hbyte := holds_loseBlock_of_keep (s := s) (bs := longBytes s (s.r 0)) (by simp [longBytes]) hlt
        ((inLongOf_sub_blockOf (hin _ hlt)).2 hlt)
      rwa [hoff] at hbyte
  case ocbi =>
    have hmapped : regionKind s.params.memMap (s.r n) ≠ none := by rcases hr with h | h <;> simp [h]
    have hwritable : regionKind s.params.memMap (s.r n) ≠ some .rom := by rcases hr with h | h <;> simp [h]
    exact completes_of_done (complete_checkBlock hm hmapped fun _ => hwritable) (BlockLost.of_ocbi s (s.r n))

/-- Settles O39: PREF, PREFI and SYNCO do nothing, OCBP and OCBWB nothing after their check, and ICBI takes the block out
of `dirty_code`. -/
theorem cacheWithoutEffect : Obligations.CacheWithoutEffect := by
  refine fun s n => ⟨fun hm hr => ⟨?ocbp, ?ocbwb⟩, ?pref, ?synco, fun hp => ?prefi, fun hp hm hr => ?icbi⟩
  case ocbp | ocbwb => exact (Updates.refl s).completes (complete_checkBlock hm hr nofun)
  case pref | synco => exact (Updates.refl s).completes rfl
  case prefi => exact (Updates.refl s).completes (whenNotInSlot_of_none hp)
  case icbi =>
    refine completes_of_done ((whenNotInSlot_of_none hp).trans (complete_checkBlock hm hr nofun)) ?_
    refine ⟨(Registers.of_banks ⟨rfl, rfl, rfl⟩ rfl).advance, by simp, SameRest.advance (by constructor <;> rfl),
      SameMemory.of_mem (by simp), Advanced.advance rfl rfl, fun b => ?_⟩
    rw [State.advance_dirtyCode]
    exact mem_setErase s.dirtyCode _ b

/-! ## Linked access (10_state.md R55) -/

/-- A write of LDST leaves nothing else changed. -/
theorem Updates.setLdst {s u v : State} {regs : Reg → Word} {sr : Word} (h : Updates s regs sr v u) (b : Bool) :
    Updates s regs sr { v with ldst := b } { u with ldst := b } :=
  h.change ⟨rfl, rfl, rfl⟩ rfl h.status { h.rest with ldst := rfl } rfl rfl rfl rfl

/-- Settles O36: MOVLI.L is a load and a write of R0 and LDST; MOVCO.L writes T and LDST, with LDST set after a store. -/
theorem linkedAccess : Obligations.LinkedAccess := by
  refine fun s m n => ⟨fun v hl => ?movli, fun hset hst => ?stores, fun hclear => ?refuses⟩
  case movli =>
    exact (((Updates.refl s).setR 0 v).setLdst true).completes (loadLong_of_loads hl (s.setR_params 0 v))
  case stores => exact completes_storeLong hst (if_pos hset) (((Updates.putAt s _ _).setT true).setLdst false)
  case refuses =>
    have hnot : ¬ s.ldst = true := by simp [hclear]
    exact (((Updates.refl s).setT false).setLdst false).completes (if_neg hnot)

end Sys2Proof.Machine

/-! PROOF. The shifts: the one-bit forms as claims write them, each compared bit by bit, the multi-bit ones as products
and quotients by powers of two, then each statement. -/

namespace Sys2Proof.Machine

/-! ## One bit (46_shift.md R371, R372, R377) -/

/-- T enters on the right (R371). -/
theorem append_tBit_eq (s : State) (x : Word) :
    x.extractLsb' 0 31 ++ BitVec.ofBool s.tBit = (x <<< 1) ||| (s.sr &&& 1#32) := by
  rw [BitVec.and_one_eq_setWidth_ofBool_getLsbD, ← State.tBit]
  apply BitVec.eq_of_getLsbD_eq
  intro k hk
  rw [BitVec.getLsbD_append, BitVec.getLsbD_or, BitVec.getLsbD_shiftLeft, BitVec.getLsbD_setWidth]
  by_cases h0 : k = 0
  · simp [h0]
  · simp [h0, hk, show k - 1 < 31 by omega]

/-- T enters on the left (R372). -/
theorem tBit_append_eq (s : State) (x : Word) :
    BitVec.ofBool s.tBit ++ x.extractLsb' 1 31 = (x >>> 1) ||| ((s.sr &&& 1#32) <<< 31) := by
  rw [BitVec.and_one_eq_setWidth_ofBool_getLsbD, ← State.tBit]
  apply BitVec.eq_of_getLsbD_eq
  intro k hk
  rw [BitVec.getLsbD_append, BitVec.getLsbD_or, BitVec.getLsbD_ushiftRight, BitVec.getLsbD_shiftLeft,
    BitVec.getLsbD_setWidth]
  by_cases hlow : k < 31
  · simp [hlow]
  · obtain rfl : k = 31 := by omega
    simp

/-- An arithmetic shift right by one keeps the sign bit (R377). -/
theorem sshiftRight_one_eq (x : Word) : x.sshiftRight 1 = (x >>> 1) ||| (x &&& 0x80000000#32) := by
  have hmask : ∀ k < 32, (0x80000000#32).getLsbD k = decide (k = 31) := by decide
  apply BitVec.eq_of_getLsbD_eq
  intro k hk
  rw [BitVec.getLsbD_sshiftRight, BitVec.getLsbD_or, BitVec.getLsbD_ushiftRight, BitVec.getLsbD_and, hmask k hk]
  by_cases hlow : k < 31
  · simp [show 1 + k < 32 by omega, show k ≠ 31 by omega, hk]
  · obtain rfl : k = 31 := by omega
    simp [BitVec.msb_eq_getLsbD_last]

/-- Settles O40: each form is one write of a register and one of T. -/
theorem oneBitShifts : Obligations.OneBitShifts := by
  refine fun s n => ⟨?rotcl, ?rotcr, ?rotl, ?rotr, completes_setR_setT rfl, ?shar, completes_setR_setT rfl,
    completes_setR_setT rfl, ?_, ?_, ?_, ?_, ?_, ?_, ?_, ?_⟩
  case rotcl => exact append_tBit_eq s (s.r n) ▸ completes_setR_setT rfl
  case rotcr => exact tBit_append_eq s (s.r n) ▸ completes_setR_setT rfl
  case rotl => exact BitVec.rotateLeft_def (x := s.r n) (r := 1) ▸ completes_setR_setT rfl
  case rotr => exact BitVec.rotateRight_def (x := s.r n) (r := 1) ▸ completes_setR_setT rfl
  case shar => exact sshiftRight_one_eq (s.r n) ▸ completes_setR_setT rfl
  all_goals exact decode_eq_ok_iff.2 rfl

/-! ## Several bits -/

/-- A shift left multiplies. -/
theorem shiftLeft_eq_ofNat (x : Word) (k : Nat) : x <<< k = BitVec.ofNat 32 (x.toNat * 2 ^ k) := by
  apply BitVec.eq_of_toNat_eq
  rw [BitVec.toNat_shiftLeft, Nat.shiftLeft_eq, BitVec.toNat_ofNat]

/-- A logical shift right divides the unsigned value, rounding down. -/
theorem ushiftRight_eq_ofNat (x : Word) (k : Nat) : x >>> k = BitVec.ofNat 32 (x.toNat / 2 ^ k) := by
  rw [← Nat.shiftRight_eq_div_pow, ← BitVec.toNat_ushiftRight, BitVec.ofNat_toNat, BitVec.setWidth_eq]

/-- An arithmetic shift right divides the signed value, rounding down. -/
theorem sshiftRight_eq_ofInt (x : Word) (k : Nat) : x.sshiftRight k = BitVec.ofInt 32 (x.toInt / 2 ^ k) := by
  rw [BitVec.sshiftRight, Int.shiftRight_eq_div_pow]
  norm_cast

theorem shiftCount_eq (x : Word) : shiftCount x = x.toNat % 32 := BitVec.extractLsb'_toNat 0 5 x

/-- SHAD's result (46_shift.md R375). -/
theorem shiftArith_eq (x y : Word) : shiftArith x y = if y.msb then BitVec.ofInt 32 (x.toInt / 2 ^ (32 - y.toNat % 32))
    else BitVec.ofNat 32 (x.toNat * 2 ^ (y.toNat % 32)) := by
  rw [shiftArith, shiftCount_eq, sshiftRight_eq_ofInt, shiftLeft_eq_ofNat]

/-- SHLD's result (R378). -/
theorem shiftLogic_eq (x y : Word) : shiftLogic x y = if y.msb then BitVec.ofNat 32 (x.toNat / 2 ^ (32 - y.toNat % 32))
    else BitVec.ofNat 32 (x.toNat * 2 ^ (y.toNat % 32)) := by
  rw [shiftLogic, shiftCount_eq, ushiftRight_eq_ofNat, shiftLeft_eq_ofNat]

/-- Settles O41: each form is one write of a register. -/
theorem multiBitShifts : Obligations.MultiBitShifts := by
  refine fun s m n => ⟨?shll2, ?shll8, ?shll16, ?shlr2, ?shlr8, ?shlr16, ?shad, ?shld⟩
  case shll2 => exact BitVec.mul_twoPow_eq_shiftLeft (s.r n) 2 ▸ completes_setR rfl
  case shll8 => exact BitVec.mul_twoPow_eq_shiftLeft (s.r n) 8 ▸ completes_setR rfl
  case shll16 => exact BitVec.mul_twoPow_eq_shiftLeft (s.r n) 16 ▸ completes_setR rfl
  case shlr2 => exact ushiftRight_eq_ofNat (s.r n) 2 ▸ completes_setR rfl
  case shlr8 => exact ushiftRight_eq_ofNat (s.r n) 8 ▸ completes_setR rfl
  case shlr16 => exact ushiftRight_eq_ofNat (s.r n) 16 ▸ completes_setR rfl
  case shad => exact completes_setR (congrArg (fun w => done (s.setR n w)) (shiftArith_eq (s.r n) (s.r m)))
  case shld => exact completes_setR (congrArg (fun w => done (s.setR n w)) (shiftLogic_eq (s.r n) (s.r m)))

end Sys2Proof.Machine

/-! PROOF. A step that begins with the repeat counter armed. -/

namespace Sys2Proof.Machine

section

variable {s : State}

/-- With nothing pending a step is one from an instruction boundary (60_exceptions.md R450). -/
theorem step_eq_runBoundary (hp : s.pending = none) : step s = runBoundary s :=
  if_neg (by simp [hp])

/-- Before the oracle is asked, a run that goes on is refused when the repeat counter is armed (47_dsp_control.md R440). -/
theorem runBoundary_of_rc_ne_zero (hgo : ¬ RunEnded s) (hrc : s.rc ≠ 0) : runBoundary s = .refused .repeatLoopArmed := by
  have hend : ¬ s.runEnded = true := mt (runEnded_iff s).1 hgo
  rw [runBoundary, if_neg hend, if_pos hrc]

end

/-- Settles O53: the repeat counter is looked at before interrupt sampling and sleep. -/
theorem repeatLoopRefused : Obligations.RepeatLoopRefused :=
  fun _ hp hgo hrc => (step_eq_runBoundary hp).trans (runBoundary_of_rc_ne_zero hgo hrc)

end Sys2Proof.Machine

/-! PROOF. Exceptions and interrupts: how an instruction from user mode comes to privileged mode, what a step from an
instruction boundary does with a request of the oracle, and the raise of an exception in the terms of claims. -/

namespace Sys2Proof.Machine

/-! ## The ways into privileged mode (60_exceptions.md R472) -/

section

variable {wt ws : Bool} {s t : State} {o : Outcome}

/-- An instruction that takes user mode to privileged mode enters an exception, TRAPA with TRA written first. -/
theorem Ends.entersException (he : Ends wt ws s o) (hm : s.md = false) (ho : o = .next t) (ht : t.md = true) :
    ∃ v e, t = State.enterException { s with tra := v } e := by
  rcases he t ho with ⟨e, hr⟩ | ⟨i, -, hr⟩ | ⟨u, hk, rfl⟩ | ⟨a, -, rfl⟩ | ⟨a, p, -, rfl⟩ | ⟨-, hp, -⟩
  · obtain ⟨-, -, rfl⟩ := raise_next.1 hr
    exact ⟨s.tra, e, rfl⟩
  · obtain ⟨-, -, rfl⟩ := raise_next.1 hr
    exact ⟨_, _, rfl⟩
  · have hu : u.advance.md = false := by
      rw [State.md, State.advance_sr]
      exact hk.md hm
    exact absurd (hu.symm.trans ht) nofun
  · exact absurd (hm.symm.trans ht) nofun
  · exact absurd (hm.symm.trans ht) nofun
  · exact absurd (hm.symm.trans hp) nofun

/-- A step that takes user mode to privileged mode enters an interrupt that the oracle requests, or an exception from
the same state but for the answers used up and TRA. -/
theorem step_enters (hm : s.md = false) (h : step s = .next t) (ht : t.md = true) :
    (∃ q, s.irqNow = some q ∧ t = s.irqTaken.enterInterrupt q) ∨
      ∃ x y v e, t = State.enterException { s with irq := x, host := y, tra := v } e := by
  rcases step_ends h with ⟨-, rfl⟩ | ⟨q, -, hq, -, rfl⟩ | ⟨-, -, rfl⟩ | ⟨x, y, -, ⟨e, hr⟩ | ⟨i, -, hi⟩⟩
  · exact absurd (hm.symm.trans ht) nofun
  · exact Or.inl ⟨q, hq, rfl⟩
  · exact absurd (hm.symm.trans ht) nofun
  · obtain ⟨-, -, rfl⟩ := raise_next.1 hr
    exact Or.inr ⟨x, y, s.tra, e, rfl⟩
  · have hused : State.md { s with irq := x, host := y } = false := hm
    obtain ⟨v, e, rfl⟩ := (exec_ends i _).entersException hused hi ht
    exact Or.inr ⟨x, y, v, e, rfl⟩

end

/-- Settles O54: the entry of an interrupt and that of an exception save and set what R451 says. -/
theorem transferToPrivileged : Obligations.TransferToPrivileged := by
  intro s t hm h ht
  rcases step_enters hm h ht with ⟨q, hq, rfl⟩ | ⟨x, y, v, e, rfl⟩
  · exact ⟨rfl, rfl, rfl, rfl, Or.inl ⟨q, hq, rfl, rfl⟩⟩
  · exact ⟨rfl, rfl, rfl, rfl, Or.inr ⟨e, rfl, rfl⟩⟩

/-! ## A step that runs an instruction (60_exceptions.md R450) -/

section

variable {s : State} {w : Half} {i : Instr} {q : IrqRequest}

/-- With a branch pending a step is its slot instruction, and the oracle is not asked (42_branch.md R200). -/
theorem step_eq_runInstr (hp : s.pending ≠ none) : step s = runInstr s :=
  if_pos (Option.isSome_iff_ne_none.2 hp)

/-- The word fetched is decoded and executed, with the host's answer to the fetch used up. -/
theorem runInstr_of_decode (hfetch : fetch s = .ok w) (hdecode : decode w = .ok i) (hextra : slotExtra s w = false) :
    runInstr s = exec i (s.hostTaken s.pc) := by
  have hextra' : slotExtra (s.hostTaken s.pc) w = false := by
    obtain ⟨y, hy⟩ := hostTaken_eq s s.pc
    rw [hy]
    exact hextra
  have hword : runWord w (s.hostTaken s.pc) = exec i (s.hostTaken s.pc) := by
    rw [runWord, hdecode]
    exact if_neg (by simp [hextra'])
  rw [runInstr, hfetch]
  exact hword

theorem runUnlessAsleep_of_awake (ha : s.asleep = false) : runUnlessAsleep s = runInstr s := if_neg (by simp [ha])

theorem runUnlessAsleep_of_asleep (ha : s.asleep = true) : runUnlessAsleep s = .next s := if_pos ha

/-! ## Interrupt sampling (R463) -/

/-- Awake, a run goes on at every address outside `END` (R476). -/
theorem not_runEnded_of_awake (hpc : s.pc ∉ s.params.ends) (ha : s.asleep = false) : ¬ RunEnded s := by
  rintro ⟨-, hend | ⟨hasleep, -⟩⟩
  · exact hpc hend
  · exact absurd (ha.symm.trans hasleep) nofun

/-- A request at this boundary is one to come, so that a machine asleep has not ended its run. -/
theorem not_runEnded_of_irqNow (hpc : s.pc ∉ s.params.ends) (hq : s.irqNow = some q) : ¬ RunEnded s := by
  rintro ⟨-, hend | ⟨-, hnone⟩⟩
  · exact hpc hend
  · have hmem : some q ∈ s.irq := List.mem_of_head? (Option.join_eq_some_iff.1 hq)
    exact absurd (hnone _ hmem) nofun

/-- Without a request the oracle's answer is used up, and an instruction runs unless the machine sleeps. -/
theorem runBoundary_of_no_request (hgo : ¬ RunEnded s) (hrc : s.rc = 0) (hq : s.irqNow = none) :
    runBoundary s = runUnlessAsleep s.irqTaken := by
  rw [runBoundary, if_neg (mt (runEnded_iff s).1 hgo), if_neg (not_not_intro hrc), hq]

/-- With one, a machine asleep with BL = 1 is refused, an acceptable request is entered, and any other is passed over. -/
theorem runBoundary_of_request (hgo : ¬ RunEnded s) (hrc : s.rc = 0) (hq : s.irqNow = some q) :
    runBoundary s = if s.asleep && s.bl then .refused .interruptDuringSleepWithBl
      else if s.accepts q then .next (s.irqTaken.enterInterrupt q) else runUnlessAsleep s.irqTaken := by
  rw [runBoundary, if_neg (mt (runEnded_iff s).1 hgo), if_neg (not_not_intro hrc), hq]

theorem accepts_iff : s.accepts q = true ↔ s.bl = false ∧ s.imask.toNat < q.level := by
  simp [State.accepts]

/-- A request that is not acceptable, of a machine that is awake or has BL = 0, is passed over. -/
theorem runBoundary_of_not_accepted (hgo : ¬ RunEnded s) (hrc : s.rc = 0) (hq : s.irqNow = some q)
    (hsleep : (s.asleep && s.bl) = false) (hno : s.bl = true ∨ q.level ≤ s.imask.toNat) :
    runBoundary s = runUnlessAsleep s.irqTaken := by
  have hreject : ¬ s.accepts q = true := by
    rw [accepts_iff]
    rintro ⟨hbl, hlevel⟩
    rcases hno with hno | hno
    · exact absurd (hbl.symm.trans hno) nofun
    · omega
  rw [runBoundary_of_request hgo hrc hq, if_neg (by simp [hsleep]), if_neg hreject]

/-- From a boundary a machine that is awake, and that no acceptable request meets, runs the instruction at the pc. -/
theorem step_of_awake (hp : s.pending = none) (hpc : s.pc ∉ s.params.ends) (hrc : s.rc = 0) (ha : s.asleep = false)
    (hno : ∀ q, s.irqNow = some q → s.bl = true ∨ q.level ≤ s.imask.toNat) : step s = runInstr s.irqTaken := by
  have hgo := not_runEnded_of_awake hpc ha
  have hskip : runBoundary s = runUnlessAsleep s.irqTaken := by
    cases hq : s.irqNow with
    | none => exact runBoundary_of_no_request hgo hrc hq
    | some q => exact runBoundary_of_not_accepted hgo hrc hq (by simp [ha]) (hno q hq)
  exact (step_eq_runBoundary hp).trans (hskip.trans (runUnlessAsleep_of_awake ha))

/-- The entry of an interrupt in the terms of claims: EXPEVT stays and the code of the request's row goes to INTEVT. -/
theorem Entered.enterInterrupt (s : State) (q : IrqRequest) :
    Entered { s with intevt := (intEntry s.params.excTable q).code } s.expevt s.pc (intEntry s.params.excTable q).offset
      (s.enterInterrupt q) where
  ssr := rfl
  spc := rfl
  sgr := rfl
  sr := rfl
  expevt := rfl
  ldst := rfl
  asleep := rfl
  pc := rfl
  pending := rfl
  banks := ⟨rfl, rfl, rfl⟩
  rest := by constructor <;> rfl
  memory := SameMemory.of_mem rfl
  dirty := rfl

/-- The row of a request, field by field (R452). -/
theorem intEntry_code (x : Config.ExcTable) (q : IrqRequest) :
    (intEntry x q).code = if q.level < 16 then q.code else x.nonMaskableInterrupt.code := by
  unfold intEntry; split <;> rfl

theorem intEntry_offset (x : Config.ExcTable) (q : IrqRequest) :
    (intEntry x q).offset = if q.level < 16 then x.interruptOffset else x.nonMaskableInterrupt.offset := by
  unfold intEntry; split <;> rfl

end

/-- Settles O5: a fetch reads nothing of the oracle, so what it gives at `s` it gives with the answer used up. -/
theorem stepRunsInstruction : Obligations.StepRunsInstruction := by
  refine fun s w i hfetch hdecode hextra => ⟨fun hp => ?slot, fun hp hpc hrc hq ha => ?boundary, rfl⟩
  case slot => exact (step_eq_runInstr hp).trans (runInstr_of_decode hfetch hdecode hextra)
  case boundary =>
    have hfetch' : fetch s.irqTaken = .ok w := hfetch
    have hrun : step s = runInstr s.irqTaken := step_of_awake hp hpc hrc ha fun q hsome => nomatch hq.symm.trans hsome
    exact hrun.trans (runInstr_of_decode hfetch' hdecode hextra)

/-- Settles O45: a raise that is no fault is the entry of the exception. -/
theorem exceptionEntry : Obligations.ExceptionEntry := by
  refine ⟨fun s e hslot hbl => ⟨s.enterException e, raise_next.2 ⟨hslot, hbl, rfl⟩, ?entered⟩, fun e => ?table⟩
  case entered =>
    have hentered := Entered.enterException s e
    unfold State.restartAddress at hentered
    cases hp : s.pending with
    | some p => simpa only [hp] using hentered
    | none => cases e <;> simpa [hp] using hentered
  case table => cases e <;> exact ⟨rfl, rfl⟩

/-- Settles O46: the two tests that a raise makes, in their order; TRAPA raises from the state with TRA written. -/
theorem exceptionsThatEndTheRun : Obligations.ExceptionsThatEndTheRun := by
  have inRte {s : State} {e : Exc} (hslot : s.inRteSlot = true) : raise e s = .fault (.exceptionInRteSlot e) :=
    if_pos hslot
  have blSet {s : State} {e : Exc} (hslot : s.inRteSlot = false) (hbl : s.bl = true) :
      raise e s = .fault (.exceptionWithBlSet e) := (if_neg (by simp [hslot])).trans (if_pos hbl)
  refine fun s e => ⟨inRte, blSet, fun i hbl hp => ?trapa⟩
  case trapa =>
    have hslot : State.inRteSlot { s with tra := zext i <<< 2 } = false := by simp only [State.inRteSlot, hp]
    exact (whenNotInSlot_of_none hp).trans (blSet hslot hbl)

/-- Settles O52: the branches that a boundary takes on a request, each with its entry or with what it goes on to do. -/
theorem interruptAcceptance : Obligations.InterruptAcceptance := by
  refine ⟨fun s q hq => ⟨fun hp hpc hrc => ?boundary, step_eq_runInstr⟩, rfl, rfl⟩
  case boundary =>
    have hgo : ¬ RunEnded s := not_runEnded_of_irqNow hpc hq
    have hstep := step_eq_runBoundary hp
    simp only [← intEntry_code, ← intEntry_offset]
    refine ⟨fun hbl hlevel => ?accepted, fun ha hno => ?awake, fun ha hbl hlevel => ?asleep, fun ha hbl => ?refused⟩
    case accepted =>
      refine ⟨s.irqTaken.enterInterrupt q, ?_, rfl, rfl, Entered.enterInterrupt s.irqTaken q⟩
      rw [hstep, runBoundary_of_request hgo hrc hq, if_neg (by simp [hbl]), if_pos (accepts_iff.2 ⟨hbl, hlevel⟩)]
    case awake =>
      have hrun : step s = runInstr s.irqTaken :=
        step_of_awake hp hpc hrc ha fun q' hq' => Option.some.inj (hq.symm.trans hq') ▸ hno
      have hnone : step { s with irq := none :: s.irq.tail } = runInstr s.irqTaken :=
        step_of_awake (s := { s with irq := none :: s.irq.tail }) hp hpc hrc ha nofun
      exact ⟨hrun.trans hnone.symm, hrun⟩
    case asleep =>
      exact hstep.trans ((runBoundary_of_not_accepted hgo hrc hq (by simp [hbl]) (Or.inr hlevel)).trans
        (runUnlessAsleep_of_asleep ha))
    case refused => rw [hstep, runBoundary_of_request hgo hrc hq, if_pos (by simp [ha, hbl])]

end Sys2Proof.Machine

/-! PROOF. Accesses to a device region: what the host's answer makes of a load and a store, and, since an instruction
begins with its first access (`exec_startsWith`), what stops that access stops the instruction. -/

namespace Sys2Proof.Machine

/-! ## Accesses that the host answers (60_exceptions.md R475) -/

section

variable {s : State} {i : Instr} {n : Reg} {a v : Word} {size : Nat}

/-- A load that the host answers ends with the answer and with it used up. -/
theorem loadByte_of_answers {k : Byte → State} (h : AnswersRead s a 1 v) :
    loadByte s a k = done ((k (v.setWidth 8)).hostTaken a) := by
  rw [loadByte, readByte_ok.2 (.inr ⟨v, h, rfl⟩)]; rfl

theorem loadHalf_of_answers {k : Half → State} (h : AnswersRead s a 2 v) :
    loadHalf s a k = done ((k (v.setWidth 16)).hostTaken a) := by
  rw [loadHalf, readHalf_ok.2 (.inr ⟨v, h, rfl⟩)]; rfl

theorem loadLong_of_answers {k : Word → State} (h : AnswersRead s a 4 v) :
    loadLong s a k = done ((k v).hostTaken a) := by
  rw [loadLong, readLong_of_answers h]; rfl

/-- A store that the host takes makes its block dirty and uses the answer up (20_memory.md R89). -/
theorem storeByte_of_answers {b : Byte} {k : State → State} (h : AnswersWrite s a 1) :
    storeByte s a b k = done (k ((s.hostTaken a).markDirty a)) := by
  rw [storeByte, writeByte_ok.2 (.inr ⟨h, rfl⟩)]; rfl

theorem storeHalf_of_answers {w : Half} {k : State → State} (h : AnswersWrite s a 2) :
    storeHalf s a w k = done (k ((s.hostTaken a).markDirty a)) := by
  rw [storeHalf, writeHalf_ok.2 (.inr ⟨h, rfl⟩)]; rfl

theorem storeLong_of_answers {w : Word} {k : State → State} (h : AnswersWrite s a 4) :
    storeLong s a w k = done (k ((s.hostTaken a).markDirty a)) := by
  rw [storeLong, writeLong_of_answers h]; rfl

/-- A load that the host answers and that writes one register. -/
theorem completes_hostLoad (h : AnswersRead s a size v) {w : Word}
    (hexec : exec i s = done ((s.setR n w).hostTaken a)) :
    Completes i s (Leaves s (withReg s.r n w) s.sr { s with host := s.host.tail }) := by
  obtain ⟨-, -, hd, -⟩ := h
  rw [← hostTaken_of_device hd]
  exact completes_of_done hexec (Leaves.load a (Registers.setR s n w) (SameRest.setR s n w) (by simp) (by simp)
    (by simp) (by simp) (by simp))

/-- A store that the host takes and that writes no register. -/
theorem completes_hostStore (h : AnswersWrite s a size) (hexec : exec i s = done ((s.hostTaken a).markDirty a)) :
    Completes i s (fun t => Registers s s.r t ∧ t.sr = s.sr ∧ SameRest { s with host := s.host.tail } t ∧
      SameMemory s t ∧ DirtiedAt s t a ∧ Advanced s t) := by
  obtain ⟨-, -, hd, -⟩ := h
  rw [hostTaken_of_device hd] at hexec
  refine completes_of_done hexec ⟨?_, by simp, SameRest.advance (by constructor <;> rfl),
    SameMemory.of_mem (by simp), fun b => ?_, Advanced.advance rfl rfl⟩
  · exact Registers.advance ⟨fun _ => rfl, fun _ => rfl⟩
  · rw [State.advance_dirtyCode]
    exact mem_setInsert s.dirtyCode _ b

end

/-! ## The access an instruction begins with -/

section

variable {s : State} {i : Instr} {a : Word} {e : Exc} {size : Nat} {x : Stop} {o : Outcome}

/-- The accesses of memory of `size` bytes at `a` whose failing raises `e`: `MemRead`, the read of a byte checked as a
load and a store, and `MemWrite` (20_memory.md R71, 41_logical.md R180 (e)). -/
inductive AccessAt (s : State) (a : Word) : Exc → Nat → {α : Type} → Access α → Prop
  | readByte : AccessAt s a .dataAddressErrorRead 1 (readByte s a)
  | readByteForUpdate : AccessAt s a .dataAddressErrorRead 1 (readByteForUpdate s a)
  | readHalf : AccessAt s a .dataAddressErrorRead 2 (readHalf s a)
  | readLong : AccessAt s a .dataAddressErrorRead 4 (readLong s a)
  | writeByte (v : Byte) : AccessAt s a .dataAddressErrorWrite 1 (writeByte s a v)
  | writeHalf (v : Half) : AccessAt s a .dataAddressErrorWrite 2 (writeHalf s a v)
  | writeLong (v : Word) : AccessAt s a .dataAddressErrorWrite 4 (writeLong s a v)

/-- The outcome is that of an access of `size` bytes at `a` and of what follows it. -/
def StartsWith (s : State) (e : Exc) (size : Nat) (a : Word) (o : Outcome) : Prop :=
  ∃ (α : Type) (r : Access α) (f : α → Access State), AccessAt s a e size r ∧ o = complete s (r >>= f)

/-- What stops the access stops the instruction. -/
theorem StartsWith.stopWith (h : StartsWith s e size a o)
    (hstop : ∀ {α : Type} {r : Access α}, AccessAt s a e size r → r = .error x) : o = stopWith s x := by
  obtain ⟨α, r, f, hr, rfl⟩ := h
  rw [hstop hr]
  rfl

theorem startsWith_bind {α : Type} {r : Access α} {f : α → Access State} (h : AccessAt s a e size r) :
    StartsWith s e size a (complete s (r >>= f)) := ⟨α, r, f, h, rfl⟩

theorem startsWith_map {α : Type} {r : Access α} {k : α → State} (h : AccessAt s a e size r) :
    StartsWith s e size a (complete s (r.map k)) :=
  ⟨α, r, fun v => .ok (k v), h, by cases r <;> rfl⟩

theorem startsWith_loadByte {k : Byte → State} : StartsWith s .dataAddressErrorRead 1 a (loadByte s a k) :=
  startsWith_map .readByte

theorem startsWith_loadHalf {k : Half → State} : StartsWith s .dataAddressErrorRead 2 a (loadHalf s a k) :=
  startsWith_map .readHalf

theorem startsWith_loadLong {k : Word → State} : StartsWith s .dataAddressErrorRead 4 a (loadLong s a k) :=
  startsWith_map .readLong

theorem startsWith_storeByte {v : Byte} {k : State → State} :
    StartsWith s .dataAddressErrorWrite 1 a (storeByte s a v k) := startsWith_map (.writeByte v)

theorem startsWith_storeHalf {v : Half} {k : State → State} :
    StartsWith s .dataAddressErrorWrite 2 a (storeHalf s a v k) := startsWith_map (.writeHalf v)

theorem startsWith_storeLong {v : Word} {k : State → State} :
    StartsWith s .dataAddressErrorWrite 4 a (storeLong s a v k) := startsWith_map (.writeLong v)

theorem startsWith_updateByte {f : Byte → Byte} {g : Byte → State → State} :
    StartsWith s .dataAddressErrorRead 1 a (updateByte s a f g) := startsWith_bind .readByteForUpdate

/-- A mode or slot check that passes leaves what the instruction begins with. -/
theorem StartsWith.of_eq {o' : Outcome} (hcheck : o' = o) (h : StartsWith s e size a o) : StartsWith s e size a o' :=
  hcheck ▸ h

/-- An instruction that may execute begins with its first access. -/
theorem exec_startsWith (hfirst : firstAccess i s = some (e, size, a)) (hmay : mayExecute i s) :
    StartsWith s e size a (exec i s) := by
  cases i with
  | movBLoad | movBLoadInc | movBLoadIdx => cases hfirst; exact startsWith_loadByte
  | movBLoadGbr => cases hfirst; exact gbrDisp_one s _ ▸ startsWith_loadByte
  | movBLoadDisp => cases hfirst; exact regDisp_one s _ _ ▸ startsWith_loadByte
  | movBStore | movBStoreDec | movBStoreIdx => cases hfirst; exact startsWith_storeByte
  | movBStoreGbr => cases hfirst; exact gbrDisp_one s _ ▸ startsWith_storeByte
  | movBStoreDisp => cases hfirst; exact regDisp_one s _ _ ▸ startsWith_storeByte
  | movWLoad | movWLoadInc | movWLoadIdx | movWLoadGbr | movWLoadDisp => cases hfirst; exact startsWith_loadHalf
  | movWStore | movWStoreDec | movWStoreIdx | movWStoreGbr | movWStoreDisp => cases hfirst; exact startsWith_storeHalf
  | movLLoad | movLLoadInc | movLLoadIdx | movLLoadGbr | movLLoadDisp | movliL => cases hfirst; exact startsWith_loadLong
  | movLStore | movLStoreDec | movLStoreIdx | movLStoreGbr | movLStoreDisp | movcaL =>
    cases hfirst; exact startsWith_storeLong
  | movcoL =>
    cases hl : s.ldst with
    | false => simp [firstAccess, hl] at hfirst
    | true =>
      simp only [firstAccess, hl, if_true] at hfirst
      cases hfirst
      exact startsWith_storeLong.of_eq (if_pos hl)
  | movWLoadPc => cases hfirst; exact startsWith_loadHalf.of_eq (whenNotInSlot_of_none (hmay.pending rfl))
  | movLLoadPc => cases hfirst; exact startsWith_loadLong.of_eq (whenNotInSlot_of_none (hmay.pending rfl))
  | andB | orB | xorB | tasB => cases hfirst; exact startsWith_updateByte
  | tstB => cases hfirst; exact startsWith_map .readByteForUpdate
  | macW => cases hfirst; exact startsWith_bind .readHalf
  | macL => cases hfirst; exact startsWith_bind .readLong
  | ldcLGbr | ldsLMach | ldsLMacl | ldsLPr => cases hfirst; exact startsWith_loadLong
  | stcLGbr | stsLMach | stsLMacl | stsLPr => cases hfirst; exact startsWith_storeLong
  | ldcLVbr | ldcLSgr | ldcLSsr | ldcLSpc | ldcLDbr | ldcLBank =>
    cases hfirst; exact startsWith_loadLong.of_eq (whenPrivileged_of_md (hmay.md rfl))
  | stcLVbr | stcLSgr | stcLSsr | stcLSpc | stcLDbr | stcLBank =>
    cases hfirst; exact startsWith_storeLong.of_eq (whenPrivileged_of_md (hmay.md rfl))
  | ldcLMod | ldcLRe | ldcLRs | ldsLDsr | ldsLA0 | ldsLX0 | ldsLX1 | ldsLY0 | ldsLY1 =>
    cases hfirst; exact startsWith_loadLong.of_eq (whenDsp_of_dsp (hmay.dsp rfl))
  | stcLMod | stcLRe | stcLRs | stsLDsr | stsLA0 | stsLX0 | stsLX1 | stsLY0 | stsLY1 =>
    cases hfirst; exact startsWith_storeLong.of_eq (whenDsp_of_dsp (hmay.dsp rfl))
  | ldcLSr =>
    cases hfirst
    exact (startsWith_bind .readLong).of_eq
      ((whenNotInSlot_of_none (hmay.pending rfl)).trans (whenPrivilegedOrDsp_of_mode (hmay.mdOrDsp rfl)))
  | stcLSr => cases hfirst; exact startsWith_storeLong.of_eq (whenPrivilegedOrDsp_of_mode (hmay.mdOrDsp rfl))
  | _ => cases hfirst

/-! ## Accesses in a device region that stop (R475, 20_memory.md R82) -/

/-- An access in a device region, aligned and allowed in the mode, stops as the host's part of it does. -/
theorem AccessAt.error_of_host {α : Type} {r : Access α} (h : AccessAt s a e size r) (halign : a.toNat % size = 0)
    (hmode : s.mayAccess a = true) (hd : s.isDevice a = true)
    (hread : e = .dataAddressErrorRead → hostRead s a size = .error x)
    (hwrite : e = .dataAddressErrorWrite → hostWrite s a size = .error x) : r = .error x := by
  have aligned {k : Nat} {e : Exc} (hk : a.toNat % k = 0) : checkAligned a k e = .ok () := checkAligned_ok.2 hk
  have allowed {e : Exc} : checkPrivilege s a e = .ok () := checkPrivilege_ok.2 hmode
  have hcontrol : isControl a = false := by
    simp only [State.isDevice, Bool.and_eq_true, Bool.not_eq_true'] at hd
    obtain ⟨hcontrol, -⟩ := hd
    exact hcontrol
  have hc (h4 : a.toNat % 4 = 0) : controlReg a = none := controlReg_none h4 hcontrol
  cases h with
  | readByte => simp [Machine.readByte, allowed, hd, hread rfl, bind, Except.bind]
  | readByteForUpdate => simp [Machine.readByteForUpdate, allowed, hd, hread rfl, bind, Except.bind]
  | readHalf => simp [Machine.readHalf, wordAt, aligned halign, allowed, hd, hread rfl, bind, Except.bind]
  | readLong => simp [Machine.readLong, aligned halign, allowed, hc halign, hd, hread rfl, bind, Except.bind]
  | writeByte v => simp [Machine.writeByte, allowed, hd, hwrite rfl, bind, Except.bind]
  | writeHalf v => simp [Machine.writeHalf, aligned halign, allowed, hd, hwrite rfl, bind, Except.bind]
  | writeLong v => simp [Machine.writeLong, aligned halign, allowed, hc halign, hd, hwrite rfl, bind, Except.bind]

/-- Where every byte may be accessed, a host that has no answer refuses. -/
theorem hostRead_of_no_answer (hhost : s.host = []) (h : HostReadable s a size) :
    hostRead s a size = .error (.refused (.deviceAccess a)) := by
  have hcheck : checkEach (checkHostRead s) a size = .ok () :=
    checkEach_ok.2 fun k hk => checkHostRead_ok.2 (h k hk)
  refine (access_bind_of_ok hcheck).trans ?_
  rw [hostAnswer, hhost]

theorem hostWrite_of_no_answer (hhost : s.host = []) (h : HostWritable s a size) :
    hostWrite s a size = .error (.refused (.deviceAccess a)) := by
  have hcheck : checkEach (checkHostWrite s) a size = .ok () :=
    checkEach_ok.2 fun k hk => checkHostWrite_ok.2 (h k hk)
  refine (access_bind_of_ok hcheck).trans ?_
  rw [hostTakes, hhost]

/-- Where a byte is the first that may not be accessed, being in no region, the host is not asked. -/
theorem hostRead_unmapped {k : Nat} (hk : k < size) (h : HostReadable s a k)
    (hc : isControl (a + BitVec.ofNat 32 k) = false)
    (hu : regionKind s.params.memMap (a + BitVec.ofNat 32 k) = none) :
    hostRead s a size = .error (.fault (.unmapped (a + BitVec.ofNat 32 k))) :=
  hostRead_error hk (fun j hj => checkHostRead_ok.2 (h j hj))
    ((if_neg (by simp [isDevice_of_unmapped hu])).trans (checkRead_unmapped hc hu))

theorem hostWrite_unmapped {k : Nat} (hk : k < size) (h : HostWritable s a k)
    (hc : isControl (a + BitVec.ofNat 32 k) = false)
    (hu : regionKind s.params.memMap (a + BitVec.ofNat 32 k) = none) :
    hostWrite s a size = .error (.fault (.unmapped (a + BitVec.ofNat 32 k))) :=
  access_bind_of_error (checkEach_error hk (fun j hj => checkHostWrite_ok.2 (h j hj))
    ((if_neg (by simp [isDevice_of_unmapped hu])).trans (checkWrite_unmapped hc hu)))

end

/-- Settles O60: the host's answer read or taken, and what stops the access an instruction begins with. -/
theorem deviceAccesses : Obligations.DeviceAccesses := by
  intro s m n
  refine ⟨fun v => ⟨fun h => ?loadByte, fun h => ?loadHalf, fun h => ?loadLong⟩,
    ⟨fun h => ?storeByte, fun h => ?storeHalf, fun h => ?storeLong⟩,
    fun i e size a hfirst hmay halign hmode hd => ⟨fun hhost hr hw => ?refused, fun k hk hr hw hc hu => ?unmapped⟩⟩
  case loadByte => exact completes_hostLoad h (loadByte_of_answers h)
  case loadHalf => exact completes_hostLoad h (loadHalf_of_answers h)
  case loadLong => exact completes_hostLoad h (loadLong_of_answers h)
  case storeByte => exact completes_hostStore h (storeByte_of_answers h)
  case storeHalf => exact completes_hostStore h (storeHalf_of_answers h)
  case storeLong => exact completes_hostStore h (storeLong_of_answers h)
  case refused =>
    exact (exec_startsWith hfirst hmay).stopWith fun hat => hat.error_of_host halign hmode hd
      (fun he => hostRead_of_no_answer hhost (hr he)) (fun he => hostWrite_of_no_answer hhost (hw he))
  case unmapped =>
    exact (exec_startsWith hfirst hmay).stopWith fun hat => hat.error_of_host halign hmode hd
      (fun he => hostRead_unmapped hk (hr he) hc hu) (fun he => hostWrite_unmapped hk (hw he) hc hu)

end Sys2Proof.Machine
